-- ==== Sys2Proof/Word.lean ====
section
/-! DEFINITION. The block's data widths: every datum is one byte, a host address has 10 bits (00_scope.md R15). -/

namespace Sys2Proof

/-- One byte, the spec's u8 (R15, R17). -/
abbrev Byte := BitVec 8

/-- An address of the host port, 0x000..0x3FF (R15, R60). -/
abbrev HostAddr := BitVec 10

end Sys2Proof
end

