-- ==== Sys2Proof/Machine/Framing.lean ====
section
/-! DEFINITION. The framing constants, the reserved band and Encode (00_scope.md R11, R19). -/

namespace Sys2Proof.Machine

/-- ESC (R11). -/
abbrev escByte : Byte := 0x7D#8
/-- START (R11). -/
abbrev startByte : Byte := 0x7E#8
/-- END (R11). -/
abbrev endByte : Byte := 0x7F#8
/-- MASK (R11). -/
abbrev escMask : Byte := 0x20#8

/-- `reserved(b)`: 0x7D ≤ b ≤ 0x7F (R19). -/
def reserved (b : Byte) : Bool := decide (0x7D ≤ b.toNat ∧ b.toNat ≤ 0x7F)

/-- `esc(b)`: a reserved byte becomes ESC and its XOR with MASK, any other byte stays (R19). -/
def escape (b : Byte) : List Byte := if reserved b then [escByte, b ^^^ escMask] else [b]

/-- `Encode(s)`: START, the escaped body, END (R19, 30_encoding.md R87). -/
def encodeFrame (body : List Byte) : List Byte := [startByte] ++ body.flatMap escape ++ [endByte]

end Sys2Proof.Machine
end

