-- ==== Sys2Proof/Config.lean ====
section
/-! DEFINITION. The implementation parameters of 00_scope.md R9 to R14, and the one free value of the model. -/

namespace Sys2Proof

/-- The parameters the spec leaves open (92_eei_decisions.md, OPEN parameters), with the spec's defaults. They are
arguments of the model and no step changes them (R21); State carries them (log 4, DESIGN CHOICE). -/
structure Config where
  /-- MAX_PKT, the capacity in bytes (R9). -/
  maxPkt : Nat := 64
  /-- TX_WAIT_LIMIT: `none` waits for ever, `some n` bounds the transmit waits to n ticks (R12). -/
  txWaitLimit : Option Nat := none
  /-- OCC_COUNT as a table indexed by the occupancy byte; a byte beyond the table counts as itself, so the empty table
  is the default, the identity (R13). -/
  occTable : List Nat := []
  /-- A_TXFIFO, the transmit FIFO address (R14). -/
  aTxFifo : Byte := 0x3F#8
  /-- A_RXFIFO, the receive FIFO address (R14). -/
  aRxFifo : Byte := 0x3F#8
  /-- A_RXBYTES, the FIFO occupancy status address (R14). -/
  aRxBytes : Byte := 0x3B#8
  /-- CMD_STX, the begin-transmit strobe (R14). -/
  cmdStx : Byte := 0x35#8
  /-- CMD_SFRX, the FIFO-flush strobe (R14). -/
  cmdSfrx : Byte := 0x3A#8
  deriving DecidableEq, Repr

/-- The ranges the spec gives the parameters: 1 ≤ MAX_PKT ≤ 254 (R9) and a wait limit of at least 1 (R12). -/
abbrev Config.Ok (c : Config) : Prop :=
  1 ≤ c.maxPkt ∧ c.maxPkt ≤ 254 ∧ c.txWaitLimit ≠ some 0

/-- The free value of the model: which of the block's own enabled steps is taken when no move is queued
(40_sequencer.md R105, R112; log 3). It has no body, so a statement holds for every choice. -/
opaque Config.freeChoice : Nat → Nat

end Sys2Proof
end

