-- ==== Sys2Proof/Machine/Types.lean ====
section
/-! DEFINITION. The vocabulary of the machine: decoder states, error codes, engine operations and phases, events of the
ports, and the moves of the agents. -/

namespace Sys2Proof.Machine

/-- DEC_STATE (10_state.md R34). The value 3 is never produced (93 I1), so the type leaves it out (log 14). -/
inductive DecState where
  | idle
  | receiving
  | escapePending
  deriving DecidableEq, Repr

/-- The four legal commands (30_encoding.md R82). -/
inductive Opcode where
  | encSend
  | txPacket
  | txRaw
  | setup
  deriving DecidableEq, Repr

/-- The codes of STATUS.ERR that exist (60_exceptions.md R231); 4 to 7 are never produced (93 I3; log 14). -/
inductive ErrCode where
  | none
  | badOpcode
  | badLen
  | txTimeout
  deriving DecidableEq, Repr

/-- pe_op: the packet engine's operation in progress (10_state.md R44). -/
inductive PeOp where
  | none
  | enc
  | txp
  | txr
  | rxd
  deriving DecidableEq, Repr

/-- pe_phase: the step label within the operation's script (10_state.md R44); `enc` is the spec's ENC.p. -/
inductive Phase where
  | none
  | enc
  | t1
  | t2
  | t3
  | t4
  | x1
  | x2
  | x3
  | x4
  | x5
  | x6
  | x7
  deriving DecidableEq, Repr

/-- The contents of cmd_pend: the accepted command with the operands captured at acceptance (10_state.md R45). -/
structure PendCmd where
  op : Opcode
  len : Byte
  dest : Byte
  deriving DecidableEq, Repr

/-- The fields of RX_RESULT (10_state.md R37). -/
structure RxResult where
  present : Bool
  crcOk : Bool
  oversize : Bool
  deriving DecidableEq, Repr

/-- The events of `hist` (10_state.md R47). -/
inductive Event where
  | serialOut (b : Byte)
  | radioWB (a : Byte) (bytes : List Byte)
  | radioRR (a r : Byte)
  | radioRB (a : Byte) (n : Nat) (bytes : List Byte)
  | radioRS (a r : Byte)
  | radioST (c : Byte)
  | wake
  | frame (bytes : List Byte)
  | packet (bytes : List Byte) (wake : Bool)
  deriving DecidableEq, Repr

/-- The five radio transactions, as PE offers them to RADIO (00_scope.md R18, 20_memory.md R66). -/
inductive RadioReq where
  | writeBurst (a : Byte) (bytes : List Byte)
  | readReg (a : Byte)
  | readBurst (a : Byte) (n : Nat)
  | readStatus (a : Byte)
  | strobe (c : Byte)
  deriving DecidableEq, Repr

/-- One step of one agent (40_sequencer.md R100). The queue of moves in State fixes the interleaving (log 1). -/
inductive Move where
  /-- HOST reads address `a`. -/
  | hostRead (a : HostAddr)
  /-- HOST writes `v` to address `a`. -/
  | hostWrite (a : HostAddr) (v : Byte)
  /-- PE starts the pending command (R106). -/
  | startCmd
  /-- PE starts RX_DISPATCH (R107). -/
  | startRx
  /-- STX takes the byte PE offers (R182). -/
  | stx
  /-- RADIO takes the transaction PE offers and answers `data`: T1, T2, X1 to X5. -/
  | radio (data : List Byte)
  /-- PE's internal step: T3, T4 or X7. -/
  | pe
  /-- DE takes the serial byte on offer (R186). -/
  | feed
  /-- SRX offers the byte `b` (R68). -/
  | srx (b : Byte)
  /-- SIG sets PKT_SIG (R69). -/
  | sig (level : Bool)
  /-- One tick of the tick input (R70). -/
  | tick
  /-- RESET (R260). -/
  | reset
  deriving DecidableEq, Repr

end Sys2Proof.Machine
end

