-- ==== Sys2Proof/Machine/State.lean ====
section
/-! DEFINITION. The state of the block (10_state.md R21 to R49), as plain data, and its value at launch. -/

namespace Sys2Proof.Machine

/-- Faults. The block has none: "No outcome stops the block" (60_exceptions.md R230), and 93_implementation_defined.md
section 1 says that `fault` is never used. So no constructor exists and no step faults (log 19; safe). -/
inductive Fault where
  deriving DecidableEq, Repr

/-- Refusals. -/
inductive Refusal where
  /-- Raised only by an arm of exec that gives its instruction no meaning, under the row's mnemonic; no arm does
  (safe: the machine stops rather than goes on). -/
  | notModelled (mnemonic : String)
  deriving DecidableEq, Repr

/-- Everything the spec gives the block, its environment-owned inputs and the model's own bookkeeping. -/
structure State where
  /-- The implementation parameters (R9 to R14); no step changes them (log 4). -/
  cfg : Config
  /-- ARG_LEN (R24). -/
  argLen : Byte
  /-- ARG_DEST (R25). -/
  argDest : Byte
  /-- STATUS.BUSY (R27). -/
  busy : Bool
  /-- STATUS.ERR (R28). -/
  err : ErrCode
  /-- STATUS.IE (R29). -/
  ie : Bool
  /-- STATUS.IFG (R30). -/
  ifg : Bool
  /-- STATUS.FRM_VALID (R31). -/
  frmValid : Bool
  /-- STATUS.PKT_VALID (R32). -/
  pktValid : Bool
  /-- DEC_STATE (R34). -/
  decState : DecState
  /-- DEC_IDX (R35). -/
  decIdx : Byte
  /-- FRM_LEN (R36). -/
  frmLen : Byte
  /-- RX_RESULT (R37). -/
  rxResult : RxResult
  /-- RX_LEN (R38). -/
  rxLen : Byte
  /-- RX_RSSI (R39). -/
  rxRssi : Byte
  /-- RX_LQI_CRC (R40). -/
  rxLqiCrc : Byte
  /-- The buffers SRC, RXBUF and ACC at their host addresses (R41 to R43, R60), in canonical form (log 8). -/
  mem : List Host.Cell
  /-- pe_op (R44). -/
  peOp : PeOp
  /-- pe_phase (R44). -/
  pePhase : Phase
  /-- pe_len (R44). -/
  peLen : Byte
  /-- pe_dest (R44). -/
  peDest : Byte
  /-- pe_i (R44). -/
  peI : Nat
  /-- pe_L (R44). -/
  peL : Byte
  /-- pe_wait (R44, R246). -/
  peWait : Nat
  /-- cmd_pend (R45). -/
  cmdPend : Option PendCmd
  /-- PKT_SIG, an input of the environment (R46). -/
  pktSig : Bool
  /-- srx, the serial byte on offer, an input of the environment (R46). -/
  srx : Option Byte
  /-- hist, the model's event record (R47). -/
  hist : List Event
  /-- The byte the last host read returned to HOST: an output of the host port, not block state (log 9). -/
  readData : Option Byte
  /-- The agents' moves still to be taken, first one next (log 1). -/
  moves : List Move
  /-- How many scheduling choices the model has made by itself (log 3). -/
  turn : Nat
  deriving DecidableEq, Repr

/-- The machine at launch: the reset values of R49, the default parameters (log 5), the environment's inputs at the
launch values of log 6, and no move queued (log 11). -/
def State.reset : State where
  cfg := {}
  argLen := 0x00#8
  argDest := 0x00#8
  busy := false
  err := .none
  ie := false
  ifg := false
  frmValid := false
  pktValid := false
  decState := .idle
  decIdx := 0x00#8
  frmLen := 0x00#8
  rxResult := ⟨false, false, false⟩
  rxLen := 0x00#8
  rxRssi := 0x00#8
  rxLqiCrc := 0x00#8
  mem := []
  peOp := .none
  pePhase := .none
  peLen := 0x00#8
  peDest := 0x00#8
  peI := 0
  peL := 0x00#8
  peWait := 0
  cmdPend := none
  pktSig := false
  srx := none
  hist := []
  readData := none
  moves := []
  turn := 0

end Sys2Proof.Machine
end

