-- ==== Sys2Proof/Machine/Ops.lean ====
section
/-! DEFINITION. The named operations over memory and registers, shared by the meanings. -/

namespace Sys2Proof.Machine

/-! ### Memory: the buffers of the host address space (20_memory.md R60) -/

/-- First host address of SRC (R62). -/
abbrev srcBase : Nat := 0x100
/-- First host address of RXBUF (R63). -/
abbrev rxBase : Nat := 0x200
/-- First host address of ACC (R64). -/
abbrev accBase : Nat := 0x300

/-- What an unlisted buffer byte reads as: the reset contents, 0x00 (10_state.md R49). -/
abbrev unlistedByte : Byte := 0x00#8

/-- The byte at address `a`. -/
def readByte : List Host.Cell → Nat → Byte
  | [], _ => unlistedByte
  | (k, v) :: rest, a => if k = a then v else readByte rest a

/-- The memory with `v` at address `a`, in canonical form: rising addresses, no cell equal to what an unlisted address
reads as. -/
def writeByte : List Host.Cell → Nat → Byte → List Host.Cell
  | [], a, v => if v = unlistedByte then [] else [(a, v)]
  | (k, w) :: rest, a, v =>
    if k < a then (k, w) :: writeByte rest a v
    else if k = a then (if v = unlistedByte then rest else (a, v) :: rest)
    else (if v = unlistedByte then (k, w) :: rest else (a, v) :: (k, w) :: rest)

/-- The `n` bytes from address `a` on, in index order (R71). -/
def readBytes (m : List Host.Cell) (a n : Nat) : List Byte := (List.range n).map fun i => readByte m (a + i)

/-- The bytes written from address `a` on, in index order (R71). -/
def writeBytes : List Host.Cell → Nat → List Byte → List Host.Cell
  | m, _, [] => m
  | m, a, b :: bs => writeBytes (writeByte m a b) (a + 1) bs

/-- The `n` bytes from address `a` on set to 0x00. -/
def clearBytes (m : List Host.Cell) (a n : Nat) : List Host.Cell := m.filter fun c => !decide (a ≤ c.1 ∧ c.1 < a + n)

/-- The canonical form, with `lo` a lower bound of the addresses. -/
def Memory.wfFrom : Nat → List Host.Cell → Bool
  | _, [] => true
  | lo, (k, v) :: rest => decide (lo ≤ k) && decide (v ≠ unlistedByte) && Memory.wfFrom (k + 1) rest

/-- The canonical form of memory: addresses strictly rising, no cell equal to what an unlisted address reads as. -/
def Memory.wf (m : List Host.Cell) : Bool := Memory.wfFrom 0 m

/-! ### Record, error code, completion -/

/-- `emit E`: the event is appended to the history (00_scope.md R18, 10_state.md R47). -/
def State.emit (s : State) (e : Event) : State := { s with hist := s.hist ++ [e] }

/-- `raise Err(c)`: ERR takes the code and nothing else changes (60_exceptions.md R231). -/
def State.raise (s : State) (c : ErrCode) : State := { s with err := c }

/-- `phase <- P` (00_scope.md R18). -/
def State.toPhase (s : State) (p : Phase) : State := { s with pePhase := p }

/-- Completion of a host command: BUSY <- 0, pe_op <- NONE (40_sequencer.md R108). The phase is left as it stands
(log 7). -/
def State.finishCommand (s : State) : State := { s with busy := false, peOp := .none }

/-- Completion of a transmit: IFG <- 0, IE <- 1, BUSY <- 0, pe_op <- NONE (41_packet_tx.md R139, R140). -/
def State.finishTransmit (s : State) : State := { s.finishCommand with ifg := false, ie := true }

/-- The move at the head of the queue is taken. -/
def State.dequeue (s : State) : State := { s with moves := s.moves.tail }

/-! ### Entry to and return from the interrupt-driven operation (60_exceptions.md R242, R243) -/

/-- START_RX: pe_op <- RXD, phase <- X1, nothing else; it saves nothing (40_sequencer.md R107, R242). -/
def State.enterRx (s : State) : State := { s with peOp := .rxd, pePhase := .x1 }

/-- X7: RXBUF zeroed, IFG <- 0, pe_op <- NONE (42_packet_rx.md R160, R243). -/
def State.leaveRx (s : State) : State :=
  { s with mem := clearBytes s.mem rxBase s.cfg.maxPkt, ifg := false, peOp := .none }

/-! ### The decoder's accumulator -/

/-- `Append(x)`: store and stay RECEIVING while there is room, else drop the frame and go to IDLE
(43_serial_framer.md R185, R194). -/
def State.appendByte (s : State) (x : Byte) : State :=
  if s.decIdx.toNat < s.cfg.maxPkt then
    { s with
      mem := writeByte s.mem (accBase + s.decIdx.toNat) x
      decIdx := s.decIdx + 0x01#8
      decState := .receiving }
  else { s with decState := .idle, decIdx := 0x00#8 }

end Sys2Proof.Machine
end

