-- ==== Sys2Proof/Machine/Operands.lean ====
section
/-! DEFINITION. The operands of the operations: capacities, length bounds, the bytes an operation sends or delivers, and
the readings of radio bytes. -/

namespace Sys2Proof.Machine

/-- SRC_CAP = MAX_PKT + 1 (00_scope.md R10). -/
abbrev srcCap (c : Config) : Nat := c.maxPkt + 1

/-- OCC_COUNT(v): the bytes available that the occupancy value encodes (R13). -/
def occCount (c : Config) (v : Byte) : Nat := (c.occTable[v.toNat]?).getD v.toNat

/-- `LenOk(op, len)` (40_sequencer.md R103). -/
def lenOk (c : Config) (op : Opcode) (len : Byte) : Bool :=
  match op with
  | .encSend => decide (len.toNat ≤ srcCap c)
  | .txPacket => decide (len.toNat ≤ c.maxPkt - 1)
  | .txRaw => decide (1 ≤ len.toNat ∧ len.toNat ≤ srcCap c)
  | .setup => true

/-- `Compose(len, d, p)`: the length byte len + 1, the destination, the payload (41_packet_tx.md R130). -/
def compose (len dest : Byte) (payload : List Byte) : List Byte := [len + 0x01#8, dest] ++ payload

/-- `CrcOk(s1) = s1[7]` (42_packet_rx.md R150). -/
def crcOk (s1 : Byte) : Bool := s1.getLsbD 7

/-- SRC[0..pe_len): the data of the command PE runs (10_state.md R41). -/
def srcData (s : State) : List Byte := readBytes s.mem srcBase s.peLen.toNat

/-- The encoded frame ENC_SEND puts out: Encode(SRC[0..pe_len)) (43_serial_framer.md R181). -/
def encodedSrc (s : State) : List Byte := encodeFrame (srcData s)

/-- ACC[0..FRM_LEN): the frame on offer (10_state.md R31). -/
def offeredFrame (s : State) : List Byte := readBytes s.mem accBase s.frmLen.toNat

/-- RXBUF[0..RX_LEN): the packet on offer (10_state.md R32). -/
def offeredPacket (s : State) : List Byte := readBytes s.mem rxBase s.rxLen.toNat

end Sys2Proof.Machine
end

