-- ==== Sys2Proof/Machine/Acks.lean ====
section
/-! DEFINITION. The ACK rows: the returns of the two consumer callbacks (44_control.md R214 to R216). -/

namespace Sys2Proof.Machine

/-- The FRM_ACK part of an ACK write (R214); without effect when no frame is on offer (R215). -/
def ackFramePart (s : State) : State :=
  if s.frmValid then { s.emit (.frame (offeredFrame s)) with frmValid := false } else s

/-- The PKT_ACK part of an ACK write, with WAKE: the end of step X6 (R216, 42_packet_rx.md R159, 60_exceptions.md R245);
without effect when no packet is on offer (R215). -/
def ackPacketPart (wake : Bool) (s : State) : State :=
  if s.pktValid then
    let t := s.emit (.packet (offeredPacket s) wake)
    { (if wake then t.emit .wake else t) with pktValid := false, pePhase := .x7 }
  else s

/-- Meaning of ACK_FRM: the FRM_ACK part, then the PKT_ACK part when the same write sets PKT_ACK (R212, R214). -/
def execAckFrm (pkt wake : Bool) (s : State) : Host.Outcome State Fault Refusal :=
  .next (if pkt then ackPacketPart wake (ackFramePart s) else ackFramePart s)

/-- Meaning of ACK_PKT (R216). -/
def execAckPkt (wake : Bool) (s : State) : Host.Outcome State Fault Refusal := .next (ackPacketPart wake s)

end Sys2Proof.Machine
end

