-- ==== Sys2Proof/Syntax.lean ====
section
/-! DEFINITION. The instructions: one constructor per row of spec/opcode_table.json. -/

namespace Sys2Proof

/-- The rows of the opcode table. The CMD8 rows are host writes to CMD (30_encoding.md R80, R82), the ACK rows host
writes to ACK (R84), the EVENT rows operations with no host encoding (R85). -/
inductive Instr where
  /-- ENC_SEND, CMD write of 0x01 (43_serial_framer.md R181). -/
  | encSend
  /-- TX_PACKET, CMD write of 0x02 (41_packet_tx.md R131). -/
  | txPacket
  /-- TX_RAW, CMD write of 0x03 (41_packet_tx.md R132). -/
  | txRaw
  /-- SETUP, CMD write of 0x04 (44_control.md R211). -/
  | setup
  /-- illegal_opcode, CMD write of any other byte `op` (30_encoding.md R83). -/
  | illegalOpcode (op : Byte)
  /-- ACK_FRM, ACK write with bit 0 set (44_control.md R214); `pkt` is bit 1 and `wake` bit 2 of the same write, since
  one write may carry both acknowledgements (R84; log 12). -/
  | ackFrm (pkt wake : Bool)
  /-- ACK_PKT, ACK write with bit 1 set and bit 0 clear; `wake` is bit 2 (44_control.md R216). -/
  | ackPkt (wake : Bool)
  /-- RX_DISPATCH, entered by START_RX (42_packet_rx.md R151, 40_sequencer.md R107). -/
  | rxDispatch
  /-- FEED of the serial byte `b` (43_serial_framer.md R186). -/
  | feed (b : Byte)
  /-- FEED_IDLE_START, transition D1 (R187). -/
  | feedIdleStart
  /-- FEED_IDLE_OTHER, transition D2 on a byte other than START (R188). -/
  | feedIdleOther (b : Byte)
  /-- FEED_RECV_ESC, transition D3 (R189). -/
  | feedRecvEsc
  /-- FEED_RECV_START, transition D4 (R190). -/
  | feedRecvStart
  /-- FEED_RECV_END, transition D5 (R191). -/
  | feedRecvEnd
  /-- FEED_RECV_DATA, transition D6 on a byte outside the reserved band (R192). -/
  | feedRecvData (b : Byte)
  /-- FEED_ESC_ANY, transition D7 on any byte (R193). -/
  | feedEscAny (b : Byte)
  /-- RESET (70_reset_and_hazards.md R260). -/
  | reset
  deriving DecidableEq, Repr

end Sys2Proof
end

