-- ==== Sys2Proof/Decode.lean ====
section
/-! DEFINITION. Encodings (30_encoding.md): what selects an instruction, the decoder, the encoder, and the reading of a
bare table word. -/

namespace Sys2Proof

open Machine

/-- What selects an instruction: a byte together with the port it is written or offered on, or an event that has no
byte (the table's formats CMD8, ACK and EVENT). -/
inductive Token where
  /-- A host write of `v` to CMD (R80). -/
  | cmd (v : Byte)
  /-- A host write of `v` to ACK (R84). -/
  | ack (v : Byte)
  /-- A serial byte taken by FEED (43_serial_framer.md R186). -/
  | serial (b : Byte)
  /-- A serial byte in decoder state `st`: the match of the rows D1 to D7. -/
  | transition (st : DecState) (b : Byte)
  /-- START_RX, the trigger of RX_DISPATCH; no byte (R85). -/
  | rxTrigger
  /-- The reset step; no byte (70_reset_and_hazards.md R260). -/
  | resetStep
  deriving DecidableEq, Repr

/-- Why a token selects no instruction. -/
inductive DecodeError where
  /-- An ACK write with FRM_ACK = PKT_ACK = 0 acknowledges nothing (44_control.md R215). -/
  | nothingAcknowledged
  deriving DecidableEq, Repr

/-- The OPCODE map (R82); every other value is illegal (R83). -/
def opcodeOf (v : Byte) : Option Opcode :=
  if v = 0x01#8 then some .encSend
  else if v = 0x02#8 then some .txPacket
  else if v = 0x03#8 then some .txRaw
  else if v = 0x04#8 then some .setup
  else none

/-- The instruction a CMD write offers (R82, R83). -/
def decodeCommand (v : Byte) : Instr :=
  match opcodeOf v with
  | some .encSend => .encSend
  | some .txPacket => .txPacket
  | some .txRaw => .txRaw
  | some .setup => .setup
  | none => .illegalOpcode v

/-- The instruction an ACK write carries: bit 0 FRM_ACK, bit 1 PKT_ACK, bit 2 WAKE, bits [7:3] ignored (R84). -/
def decodeAck (v : Byte) : Except DecodeError Instr :=
  if v.getLsbD 0 then .ok (.ackFrm (v.getLsbD 1) (v.getLsbD 2))
  else if v.getLsbD 1 then .ok (.ackPkt (v.getLsbD 2))
  else .error .nothingAcknowledged

/-- The decoder transition of a serial byte in a decoder state (R88; 43_serial_framer.md R186 to R193). -/
def decodeTransition (st : DecState) (b : Byte) : Instr :=
  match st with
  | .idle => if b = startByte then .feedIdleStart else .feedIdleOther b
  | .receiving =>
    if b = escByte then .feedRecvEsc
    else if b = startByte then .feedRecvStart
    else if b = endByte then .feedRecvEnd
    else .feedRecvData b
  | .escapePending => .feedEscAny b

/-- The decoder: total, rejecting by name. -/
def decode : Token → Except DecodeError Instr
  | .cmd v => .ok (decodeCommand v)
  | .ack v => decodeAck v
  | .serial b => .ok (.feed b)
  | .transition st b => .ok (decodeTransition st b)
  | .rxTrigger => .ok .rxDispatch
  | .resetStep => .ok .reset

/-- The ACK byte of given bits, with the ignored bits [7:3] zero (R84). -/
def ackByte (frm pkt wake : Bool) : Byte :=
  (if frm then 0x01#8 else 0x00#8) ||| (if pkt then 0x02#8 else 0x00#8) ||| (if wake then 0x04#8 else 0x00#8)

/-- The encoder, from the same table: the token of a well-formed instruction. -/
def encode : Instr → Token
  | .encSend => .cmd 0x01#8
  | .txPacket => .cmd 0x02#8
  | .txRaw => .cmd 0x03#8
  | .setup => .cmd 0x04#8
  | .illegalOpcode op => .cmd op
  | .ackFrm pkt wake => .ack (ackByte true pkt wake)
  | .ackPkt wake => .ack (ackByte false true wake)
  | .rxDispatch => .rxTrigger
  | .feed b => .serial b
  | .feedIdleStart => .transition .idle startByte
  | .feedIdleOther b => .transition .idle b
  | .feedRecvEsc => .transition .receiving escByte
  | .feedRecvStart => .transition .receiving startByte
  | .feedRecvEnd => .transition .receiving endByte
  | .feedRecvData b => .transition .receiving b
  | .feedEscAny b => .transition .escapePending b
  | .reset => .resetStep

/-- The port a bare table byte is read on. The table's byte carries no port, and rows of different formats share bytes
(0x01 is ENC_SEND on CMD and ACK_FRM on ACK). The model reads the row with the most fixed bits, the earlier row among
equals: the opcodes, then the delimiters as decoder transitions, then the ACK bits, then an illegal opcode
(log 10, DESIGN CHOICE). -/
def tableToken (b : Byte) : Token :=
  if (opcodeOf b).isSome then .cmd b
  else if b = startByte then .transition .idle b
  else if b = escByte ∨ b = endByte then .transition .receiving b
  else if b.getLsbD 0 || b.getLsbD 1 then .ack b
  else .cmd b

/-- The token of a table word: the table's words have 8 bits. -/
def tokenOfTableWord (nbits w : Nat) : Option Token :=
  if nbits = 8 ∧ w < 256 then some (tableToken (BitVec.ofNat 8 w)) else none

/-- The instruction the decoder reads from a bare table word (log 10). -/
def decodeTableWord (nbits w : Nat) : Option Instr :=
  match tokenOfTableWord nbits w with
  | none => none
  | some t =>
    match decode t with
    | .ok i => some i
    | .error _ => none

end Sys2Proof
end

