-- ==== Sys2Proof/Machine/Commands.lean ====
section
/-! DEFINITION. The CMD8 rows: a command offered by a host write to CMD, and START_CMD (40_sequencer.md R102, R106). -/

namespace Sys2Proof.Machine

/-- A host write of `v` to CMD: ignored while BUSY, else rejected with BAD_OPCODE or BAD_LEN, else accepted with the
operands captured (40_sequencer.md R102). -/
def offerCommand (v : Byte) (s : State) : State :=
  if s.busy then s
  else
    match opcodeOf v with
    | none => s.raise .badOpcode
    | some op =>
      if lenOk s.cfg op s.argLen then
        { s.raise .none with busy := true, cmdPend := some ⟨op, s.argLen, s.argDest⟩ }
      else s.raise .badLen

/-- Meaning of ENC_SEND's CMD write (43_serial_framer.md R181). -/
def execEncSend (s : State) : Host.Outcome State Fault Refusal := .next (offerCommand 0x01#8 s)

/-- Meaning of TX_PACKET's CMD write (41_packet_tx.md R131). -/
def execTxPacket (s : State) : Host.Outcome State Fault Refusal := .next (offerCommand 0x02#8 s)

/-- Meaning of TX_RAW's CMD write (41_packet_tx.md R132). -/
def execTxRaw (s : State) : Host.Outcome State Fault Refusal := .next (offerCommand 0x03#8 s)

/-- Meaning of SETUP's CMD write (44_control.md R211). -/
def execSetup (s : State) : Host.Outcome State Fault Refusal := .next (offerCommand 0x04#8 s)

/-- Meaning of a CMD write of an illegal opcode (30_encoding.md R83, 60_exceptions.md R232). -/
def execIllegalOpcode (op : Byte) (s : State) : Host.Outcome State Fault Refusal := .next (offerCommand op s)

/-- START_CMD is enabled: PE is free and a command is pending (R100). -/
def canStartCmd (s : State) : Bool := decide (s.peOp = .none) && s.cmdPend.isSome

/-- The part of START_CMD that depends on the opcode (R106, 41_packet_tx.md R134, 44_control.md R211). -/
def startOperation (op : Opcode) (s : State) : State :=
  match op with
  | .encSend => { s with peOp := .enc, pePhase := .enc, peI := 0 }
  | .txPacket => { s with peOp := .txp, pePhase := .t1, ie := false, peWait := 0 }
  | .txRaw => { s with peOp := .txr, pePhase := .t1, ie := false, peWait := 0 }
  | .setup => { s with ie := true, busy := false }

/-- START_CMD: the pending command leaves cmd_pend and its operation starts (R106). -/
def startCommand (s : State) : State :=
  if canStartCmd s then
    match s.cmdPend with
    | none => s
    | some c => startOperation c.op { s with cmdPend := none, peLen := c.len, peDest := c.dest }
  else s

end Sys2Proof.Machine
end

