-- ==== Sys2Proof/Machine/Decoder.lean ====
section
/-! DEFINITION. FEED and its seven transitions D1 to D7 (43_serial_framer.md R186 to R194). -/

namespace Sys2Proof.Machine

/-- FEED of `b` is enabled: SRX offers `b` and no frame is on offer (R186). -/
def canFeed (b : Byte) (s : State) : Bool := decide (s.srx = some b) && !s.frmValid

/-- A transition's row is taken when FEED of `b` is enabled in decoder state `st`; the byte leaves `srx` and the
transition acts. Otherwise the row is not taken and nothing changes (log 20). -/
def takeTransition (st : DecState) (b : Byte) (act : State → State) (s : State) : State :=
  if canFeed b s && decide (s.decState = st) then act { s with srx := none } else s

/-- D1: IDLE and START (R187). -/
def actIdleStart (s : State) : State := { s with decState := .receiving, decIdx := 0x00#8 }

/-- D2: IDLE and any other byte; the byte is discarded (R188). -/
def actIdleOther (s : State) : State := s

/-- D3: RECEIVING and ESC (R189). -/
def actRecvEsc (s : State) : State := { s with decState := .escapePending }

/-- D4: RECEIVING and START, resynchronisation (R190). -/
def actRecvStart (s : State) : State := { s with decIdx := 0x00#8 }

/-- D5: RECEIVING and END, the frame is complete (R191). -/
def actRecvEnd (s : State) : State :=
  { s with frmLen := s.decIdx, frmValid := true, decState := .idle, decIdx := 0x00#8 }

/-- D6: RECEIVING and a data byte (R192). -/
def actRecvData (b : Byte) (s : State) : State := s.appendByte b

/-- D7: ESCAPE_PENDING and any byte (R193). -/
def actEscAny (b : Byte) (s : State) : State := s.appendByte (b ^^^ escMask)

/-- Meaning of FEED_IDLE_START (R187). -/
def execFeedIdleStart (s : State) : Host.Outcome State Fault Refusal :=
  .next (takeTransition .idle startByte actIdleStart s)

/-- Meaning of FEED_IDLE_OTHER; its row excludes START (R188). -/
def execFeedIdleOther (b : Byte) (s : State) : Host.Outcome State Fault Refusal :=
  .next (if b = startByte then s else takeTransition .idle b actIdleOther s)

/-- Meaning of FEED_RECV_ESC (R189). -/
def execFeedRecvEsc (s : State) : Host.Outcome State Fault Refusal :=
  .next (takeTransition .receiving escByte actRecvEsc s)

/-- Meaning of FEED_RECV_START (R190). -/
def execFeedRecvStart (s : State) : Host.Outcome State Fault Refusal :=
  .next (takeTransition .receiving startByte actRecvStart s)

/-- Meaning of FEED_RECV_END (R191). -/
def execFeedRecvEnd (s : State) : Host.Outcome State Fault Refusal :=
  .next (takeTransition .receiving endByte actRecvEnd s)

/-- Meaning of FEED_RECV_DATA; its row excludes the reserved band (R192). -/
def execFeedRecvData (b : Byte) (s : State) : Host.Outcome State Fault Refusal :=
  .next (if reserved b then s else takeTransition .receiving b (actRecvData b) s)

/-- Meaning of FEED_ESC_ANY (R193). -/
def execFeedEscAny (b : Byte) (s : State) : Host.Outcome State Fault Refusal :=
  .next (takeTransition .escapePending b (actEscAny b) s)

/-- The transition FEED dispatches to, by DEC_STATE and the byte (R186, 30_encoding.md R88). -/
def feedAct (st : DecState) (b : Byte) : State → State :=
  match st with
  | .idle => if b = startByte then actIdleStart else actIdleOther
  | .receiving =>
    if b = escByte then actRecvEsc
    else if b = startByte then actRecvStart
    else if b = endByte then actRecvEnd
    else actRecvData b
  | .escapePending => actEscAny b

/-- Meaning of FEED: when enabled, the byte leaves `srx` and the transition of (DEC_STATE, b) acts (R186). -/
def execFeed (b : Byte) (s : State) : Host.Outcome State Fault Refusal :=
  .next (if canFeed b s then feedAct s.decState b { s with srx := none } else s)

end Sys2Proof.Machine
end

