-- ==== Sys2Proof/Machine/Receive.lean ====
section
/-! DEFINITION. RX_DISPATCH: its entry and the steps X1 to X7 (42_packet_rx.md). -/

namespace Sys2Proof.Machine

/-- START_RX is enabled: PE is free, IFG = 1 and IE = 1 (40_sequencer.md R100, R107). -/
def canStartRx (s : State) : Bool := decide (s.peOp = .none) && s.ifg && s.ie

/-- Meaning of RX_DISPATCH: PE takes the interrupt-driven operation when START_RX is enabled, else waits (R151, R153);
its steps X1 to X7 follow as PE's moves (log 13). -/
def execRxDispatch (s : State) : Host.Outcome State Fault Refusal := .next (if canStartRx s then s.enterRx else s)

/-- X1 after the status read of `v`: nothing to receive, or on to the length byte (R154). -/
def stepX1 (v : Byte) (s : State) : State :=
  if occCount s.cfg v = 0 then
    { s with rxResult := ⟨false, false, false⟩, rxLen := 0x00#8, rxRssi := 0x00#8, rxLqiCrc := 0x00#8, pePhase := .x7 }
  else s.toPhase .x2

/-- X2 after the length byte `l`: latched, then to X3 if it fits, else to X5 (R155). -/
def stepX2 (l : Byte) (s : State) : State :=
  { s with peL := l, pePhase := if l.toNat ≤ s.cfg.maxPkt then .x3 else .x5 }

/-- X3 after the burst read: the bytes go to RXBUF from index 0 (R156). -/
def stepX3 (data : List Byte) (s : State) : State :=
  { s with mem := writeBytes s.mem rxBase data, pePhase := .x4 }

/-- X4 after the two status bytes: the RX registers, and the delivery when the CRC is good (R157). -/
def stepX4 (rssi lqiCrc : Byte) (s : State) : State :=
  { s with
    rxRssi := rssi
    rxLqiCrc := lqiCrc
    rxLen := s.peL
    rxResult := ⟨true, crcOk lqiCrc, false⟩
    pktValid := if crcOk lqiCrc then true else s.pktValid
    pePhase := if crcOk lqiCrc then .x6 else .x7 }

/-- X5 beside the flush strobe: the oversize outcome (R158). -/
def stepX5 (s : State) : State :=
  { s with rxLen := s.peL, rxRssi := 0x00#8, rxLqiCrc := 0x00#8, rxResult := ⟨true, false, true⟩, pePhase := .x7 }

/-- X7: the return (R160). -/
def stepX7 (s : State) : State := s.leaveRx

/-- The transaction PE offers in RX_DISPATCH, by phase (R154 to R158). -/
def rxOffer (s : State) : Option RadioReq :=
  match s.pePhase with
  | .x1 => some (.readStatus s.cfg.aRxBytes)
  | .x2 => some (.readReg s.cfg.aRxFifo)
  | .x3 => some (.readBurst s.cfg.aRxFifo s.peL.toNat)
  | .x4 => some (.readBurst s.cfg.aRxFifo 2)
  | .x5 => some (.strobe s.cfg.cmdSfrx)
  | _ => none

/-- What X1 to X5 do with the read data of their transaction. -/
def rxAdvance (data : List Byte) (s : State) : State :=
  match s.pePhase with
  | .x1 => stepX1 (data.getD 0 0x00#8) s
  | .x2 => stepX2 (data.getD 0 0x00#8) s
  | .x3 => stepX3 data s
  | .x4 => stepX4 (data.getD 0 0x00#8) (data.getD 1 0x00#8) s
  | .x5 => stepX5 s
  | _ => s

end Sys2Proof.Machine
end

