-- ==== Sys2Proof/Machine/Reset.lean ====
section
/-! DEFINITION. RESET (70_reset_and_hazards.md R260, R262). -/

namespace Sys2Proof.Machine

/-- Every piece of block state at its reset value (10_state.md R49); the environment's inputs, the record (R262) and the
model's own fields stay (log 18). -/
def State.resetBlock (s : State) : State :=
  { State.reset with
    cfg := s.cfg
    pktSig := s.pktSig
    srx := s.srx
    hist := s.hist
    readData := s.readData
    moves := s.moves
    turn := s.turn }

/-- Meaning of RESET (R260). -/
def execReset (s : State) : Host.Outcome State Fault Refusal := .next s.resetBlock

end Sys2Proof.Machine
end

