-- ==== Sys2Proof/Machine/Dispatch.lean ====
section
/-! DEFINITION. One arm per row of the opcode table, each one call of the row's meaning. -/

namespace Sys2Proof.Machine

def exec (i : Instr) (s : State) : Host.Outcome State Fault Refusal :=
  match i with
  | .encSend => Sys2Proof.Machine.execEncSend s
  | .txPacket => Sys2Proof.Machine.execTxPacket s
  | .txRaw => Sys2Proof.Machine.execTxRaw s
  | .setup => Sys2Proof.Machine.execSetup s
  | .illegalOpcode op => Sys2Proof.Machine.execIllegalOpcode op s
  | .ackFrm pkt wake => Sys2Proof.Machine.execAckFrm pkt wake s
  | .ackPkt wake => Sys2Proof.Machine.execAckPkt wake s
  | .rxDispatch => Sys2Proof.Machine.execRxDispatch s
  | .feed b => Sys2Proof.Machine.execFeed b s
  | .feedIdleStart => Sys2Proof.Machine.execFeedIdleStart s
  | .feedIdleOther b => Sys2Proof.Machine.execFeedIdleOther b s
  | .feedRecvEsc => Sys2Proof.Machine.execFeedRecvEsc s
  | .feedRecvStart => Sys2Proof.Machine.execFeedRecvStart s
  | .feedRecvEnd => Sys2Proof.Machine.execFeedRecvEnd s
  | .feedRecvData b => Sys2Proof.Machine.execFeedRecvData b s
  | .feedEscAny b => Sys2Proof.Machine.execFeedEscAny b s
  | .reset => Sys2Proof.Machine.execReset s

end Sys2Proof.Machine
end

