-- ==== Sys2Proof/Machine/Encoder.lean ====
section
/-! DEFINITION. The ENC step of ENC_SEND (43_serial_framer.md R181, R182). -/

namespace Sys2Proof.Machine

/-- The byte PE offers to STX: e[pe_i] while pe_op = ENC (R182). -/
def serialOffer (s : State) : Option Byte := if s.peOp = .enc then (encodedSrc s)[s.peI]? else none

/-- STX takes the byte PE offers; the step that takes the last byte completes the command (R182). -/
def encStep (s : State) : State :=
  match serialOffer s with
  | none => s
  | some b =>
    let t : State := { s.emit (.serialOut b) with peI := s.peI + 1 }
    if s.peI + 1 = (encodedSrc s).length then t.finishCommand else t

end Sys2Proof.Machine
end

