-- ==== Sys2Proof/Machine/Flags.lean ====
section
/-! DEFINITION. The registers that are views of flags: STATUS, DEC, RX_RESULT (44_control.md R210). -/

namespace Sys2Proof.Machine

/-- One flag as a byte, 0 or 1. -/
def flagByte (b : Bool) : Byte := if b then 0x01#8 else 0x00#8

/-- The code of an error (60_exceptions.md R231). -/
def ErrCode.code : ErrCode → Byte
  | .none => 0x00#8
  | .badOpcode => 0x01#8
  | .badLen => 0x02#8
  | .txTimeout => 0x03#8

/-- DEC_STATE's encoding (10_state.md R34). -/
def DecState.code : DecState → Byte
  | .idle => 0x00#8
  | .receiving => 0x01#8
  | .escapePending => 0x02#8

/-- A read of RX_RESULT: PRESENT | CRC_OK << 1 | OVERSIZE << 2 (10_state.md R37, 44_control.md R210). -/
def RxResult.byte (r : RxResult) : Byte :=
  flagByte r.present ||| (flagByte r.crcOk <<< 1) ||| (flagByte r.oversize <<< 2)

/-- A read of STATUS (10_state.md R26, 44_control.md R210). -/
def statusByte (s : State) : Byte :=
  flagByte s.busy ||| (s.err.code <<< 1) ||| (flagByte s.ie <<< 4) ||| (flagByte s.ifg <<< 5)
    ||| (flagByte s.frmValid <<< 6) ||| (flagByte s.pktValid <<< 7)

end Sys2Proof.Machine
end

