-- ==== Sys2Proof/Machine/HostPort.lean ====
section
/-! DEFINITION. The host port: reads, and the writes that are no command and no acknowledgement (20_memory.md R60 to R65,
44_control.md R210 to R217). -/

namespace Sys2Proof.Machine

/-- The CMD register's address (10_state.md R23). -/
abbrev cmdAddr : HostAddr := 0x000#10
/-- The ARG_LEN register's address (R24). -/
abbrev argLenAddr : HostAddr := 0x001#10
/-- The ARG_DEST register's address (R25). -/
abbrev argDestAddr : HostAddr := 0x002#10
/-- The ACK register's address (R33). -/
abbrev ackAddr : HostAddr := 0x004#10

/-- The register at an offset of the REGS region; CMD, ACK and reserved offsets read 0x00 (10_state.md section 2,
20_memory.md R61, R65). -/
def readRegister (s : State) (off : Nat) : Byte :=
  match off with
  | 0x001 => s.argLen
  | 0x002 => s.argDest
  | 0x003 => statusByte s
  | 0x005 => s.decState.code
  | 0x006 => s.decIdx
  | 0x007 => s.frmLen
  | 0x008 => s.rxResult.byte
  | 0x009 => s.rxLen
  | 0x00A => s.rxRssi
  | 0x00B => s.rxLqiCrc
  | _ => 0x00#8

/-- The byte of a buffer window of `cap` bytes, 0x00 beyond the buffer (R62 to R65). -/
def readWindow (s : State) (cap : Nat) (a : HostAddr) : Byte :=
  if a.toNat % 0x100 < cap then readByte s.mem a.toNat else 0x00#8

/-- `MemRead(a, 1)` (44_control.md R210). -/
def hostRead (s : State) (a : HostAddr) : Byte :=
  match a.toNat / 0x100 with
  | 0 => readRegister s (a.toNat % 0x100)
  | 1 => readWindow s (srcCap s.cfg) a
  | _ => readWindow s s.cfg.maxPkt a

/-- The address is one of SRC's bytes (R62). -/
def isSrcAddr (c : Config) (a : HostAddr) : Bool := decide (a.toNat / 0x100 = 1 ∧ a.toNat % 0x100 < srcCap c)

/-- `MemWrite(a, 1, v)` at an address other than CMD and ACK: ARG_LEN, ARG_DEST and SRC take the byte while BUSY = 0;
every other address ignores it (44_control.md R212, R213, R217). -/
def hostStore (a : HostAddr) (v : Byte) (s : State) : State :=
  if s.busy then s
  else if a = argLenAddr then { s with argLen := v }
  else if a = argDestAddr then { s with argDest := v }
  else if isSrcAddr s.cfg a then { s with mem := writeByte s.mem a.toNat v }
  else s

end Sys2Proof.Machine
end

