-- ==== Sys2Proof/Machine/Transmit.lean ====
section
/-! DEFINITION. The transmit handshake of TX_PACKET and TX_RAW: T1 to T4 and the wait limit (41_packet_tx.md). -/

namespace Sys2Proof.Machine

/-- pe_op ∈ TXP, TXR. -/
def transmitting (s : State) : Bool := decide (s.peOp = .txp ∨ s.peOp = .txr)

/-- The bytes T1 writes: Compose for TX_PACKET, SRC[0..pe_len) unchanged for TX_RAW (R131, R132, R135). -/
def txBytes (s : State) : List Byte :=
  if s.peOp = .txp then compose s.peLen s.peDest (srcData s) else srcData s

/-- The transaction PE offers in a transmit: the burst write at T1, the begin-transmit strobe at T2 (R135, R136). -/
def txOffer (s : State) : Option RadioReq :=
  match s.pePhase with
  | .t1 => some (.writeBurst s.cfg.aTxFifo (txBytes s))
  | .t2 => some (.strobe s.cfg.cmdStx)
  | _ => none

/-- What T1 and T2 do beside their transaction: the next phase (R135, R136). -/
def txAdvance (s : State) : State :=
  match s.pePhase with
  | .t1 => s.toPhase .t2
  | .t2 => s.toPhase .t3
  | _ => s

/-- T3: with PKT_SIG = 1, on to T4 (R137). -/
def stepT3 (s : State) : State := if s.pktSig then s.toPhase .t4 else s

/-- T4: with PKT_SIG = 0, the transmit completes (R138, R139). -/
def stepT4 (s : State) : State := if s.pktSig then s else s.finishTransmit

/-- PE is in one of the two waits of a transmit, where ticks count (R140). -/
def inTxWait (s : State) : Bool := transmitting s && decide (s.pePhase = .t3 ∨ s.pePhase = .t4)

/-- A TICK step: counts in the waits when there is a limit, and at the limit ends the transmit with TX_TIMEOUT; without
effect otherwise (R140, 20_memory.md R70). -/
def tickStep (s : State) : State :=
  match s.cfg.txWaitLimit with
  | none => s
  | some n =>
    if inTxWait s then
      let t : State := { s with peWait := s.peWait + 1 }
      if n ≤ t.peWait then (t.finishTransmit).raise .txTimeout else t
    else s

end Sys2Proof.Machine
end

