-- ==== Sys2Proof/Machine/Sequencer.lean ====
section
/-! DEFINITION. The steps of the agents and when each is enabled (40_sequencer.md R100, R101), and which of them fetch an
instruction of the table. -/

namespace Sys2Proof.Machine

/-! ### The radio transaction port (20_memory.md R66) -/

/-- How many bytes of read data a transaction returns (R66). -/
def RadioReq.count : RadioReq → Nat
  | .writeBurst _ _ => 0
  | .readReg _ => 1
  | .readBurst _ n => n
  | .readStatus _ => 1
  | .strobe _ => 0

/-- The event a transaction records (R66). -/
def RadioReq.event (data : List Byte) : RadioReq → Event
  | .writeBurst a bytes => .radioWB a bytes
  | .readReg a => .radioRR a (data.getD 0 0x00#8)
  | .readBurst a n => .radioRB a n data
  | .readStatus a => .radioRS a (data.getD 0 0x00#8)
  | .strobe c => .radioST c

/-- The transaction PE offers to RADIO, if any. -/
def radioOffer (s : State) : Option RadioReq :=
  match s.peOp with
  | .txp => txOffer s
  | .txr => txOffer s
  | .rxd => rxOffer s
  | .none => none
  | .enc => none

/-- What PE does with the transaction's data, in the same step (R101). -/
def radioAdvance (data : List Byte) (s : State) : State :=
  if s.peOp = .rxd then rxAdvance data s else txAdvance s

/-- RADIO takes the transaction PE offers and answers `data`. An answer of another length is no answer to that
transaction, so no step happens (R66; log 17). -/
def radioStep (data : List Byte) (s : State) : State :=
  match radioOffer s with
  | none => s
  | some r => if data.length = r.count then radioAdvance data (s.emit (r.event data)) else s

/-! ### PE's internal steps, the inputs -/

/-- PE's internal step at T3, T4 or X7; at any other point PE has none (R100). -/
def peStep (s : State) : State :=
  match s.pePhase with
  | .t3 => if transmitting s then stepT3 s else s
  | .t4 => if transmitting s then stepT4 s else s
  | .x7 => if s.peOp = .rxd then stepX7 s else s
  | _ => s

/-- SRX offers `b` when no byte is on offer (20_memory.md R68). -/
def srxStep (b : Byte) (s : State) : State := if s.srx.isNone then { s with srx := some b } else s

/-- SIG sets PKT_SIG; a falling edge sets IFG, whatever IE is (20_memory.md R69). -/
def sigStep (level : Bool) (s : State) : State :=
  { s with pktSig := level, ifg := s.ifg || (s.pktSig && !level) }

/-! ### Which steps are enabled (R100) -/

/-- PE's internal step is enabled. -/
def canPe (s : State) : Bool :=
  match s.pePhase with
  | .t3 => transmitting s && s.pktSig
  | .t4 => transmitting s && !s.pktSig
  | .x7 => decide (s.peOp = .rxd)
  | _ => false

/-- The move's step is enabled, by the table of R100. -/
def enabled (s : State) : Move → Bool
  | .hostRead _ => true
  | .hostWrite _ _ => true
  | .startCmd => canStartCmd s
  | .startRx => canStartRx s
  | .stx => (serialOffer s).isSome
  | .radio data => decide ((radioOffer s).map RadioReq.count = some data.length)
  | .pe => canPe s
  | .feed => s.srx.isSome && !s.frmValid
  | .srx _ => s.srx.isNone
  | .sig _ => true
  | .tick => true
  | .reset => true

/-! ### Fetching -/

/-- What a move brings to the decoder: a CMD or ACK write brings its byte, FEED the byte on offer, START_RX and RESET
their event. The other moves carry no row of the table. -/
def fetchToken (s : State) : Move → Option Token
  | .hostWrite a v => if a = cmdAddr then some (.cmd v) else if a = ackAddr then some (.ack v) else none
  | .feed => s.srx.map .serial
  | .startRx => some .rxTrigger
  | .reset => some .resetStep
  | .hostRead _ => none
  | .startCmd => none
  | .stx => none
  | .radio _ => none
  | .pe => none
  | .srx _ => none
  | .sig _ => none
  | .tick => none

/-- The instruction a move fetches and decodes to. -/
def fetchInstr (s : State) (m : Move) : Option Instr :=
  match fetchToken s m with
  | none => none
  | some t =>
    match decode t with
    | .ok i => some i
    | .error _ => none

/-- The step of a move that fetches no instruction. -/
def perform (m : Move) (s : State) : State :=
  match m with
  | .hostRead a => { s with readData := some (hostRead s a) }
  | .hostWrite a v => if a = cmdAddr ∨ a = ackAddr then s else hostStore a v s
  | .startCmd => startCommand s
  | .stx => encStep s
  | .radio data => radioStep data s
  | .pe => peStep s
  | .srx b => srxStep b s
  | .sig level => sigStep level s
  | .tick => tickStep s
  | .startRx => s
  | .feed => s
  | .reset => s

/-- The block's own moves: PE's and DE's steps that need no partner (R112). -/
def ownMoves (s : State) : List Move := [Move.startCmd, .startRx, .pe, .feed].filter (enabled s)

/-- The state in which the next step runs the token's instruction: its move is first in the queue, and for a serial
byte it is on offer to DE, for a transition in that decoder state, for RX_DISPATCH its trigger holds (log 11). -/
def State.present (s : State) : Token → State
  | .cmd v => { s with moves := .hostWrite cmdAddr v :: s.moves }
  | .ack v => { s with moves := .hostWrite ackAddr v :: s.moves }
  | .serial b => { s with moves := .feed :: s.moves, srx := some b, frmValid := false }
  | .transition st b => { s with moves := .feed :: s.moves, srx := some b, frmValid := false, decState := st }
  | .rxTrigger => { s with moves := .startRx :: s.moves, peOp := .none, ifg := true, ie := true }
  | .resetStep => { s with moves := .reset :: s.moves }

end Sys2Proof.Machine
end

