-- ==== Sys2Proof/Machine/Step.lean ====
section
/-! DEFINITION. One step of the machine: the first move of the queue, or with none queued one of the block's own enabled
steps. -/

namespace Sys2Proof.Machine

/-- One move: the instruction it fetches, or the step of an agent that fetches none. -/
def runMove (m : Move) (s : State) : Host.Outcome State Fault Refusal :=
  match fetchInstr s m with
  | some i => exec i s
  | none => .next (perform m s)

/-- No move queued: the block's own enabled steps are taken, in an order the free value chooses (40_sequencer.md R105,
R112; log 3); a state with none stays as it is (R114). -/
def ownStep (s : State) : Host.Outcome State Fault Refusal :=
  match ownMoves s with
  | [] => .next s
  | m :: ms =>
    runMove ((m :: ms).getD (Config.freeChoice s.turn % (ms.length + 1)) m) { s with turn := s.turn + 1 }

/-- One step (40_sequencer.md R100, 20_memory.md R74). -/
def step (s : State) : Host.Outcome State Fault Refusal :=
  match s.moves with
  | [] => ownStep s
  | m :: _ => runMove m s.dequeue

/-- The table word `w` placed where the next step fetches (log 10, log 11). -/
def State.withFetchWord (s : State) (nbits w : Nat) : State :=
  match tokenOfTableWord nbits w with
  | none => s
  | some t => s.present t

end Sys2Proof.Machine
end

