-- ==== Sys2Proof/Safety.lean ====
section
/-! DEFINITION. What counts as a legal state and a quiescent state, in the terms the statements use. -/

namespace Sys2Proof.Machine

/-- The address lies in one of the three buffers: SRC, RXBUF or ACC (20_memory.md R60, R65). -/
def inBuffers (c : Config) (a : Nat) : Prop :=
  (srcBase ≤ a ∧ a < srcBase + srcCap c) ∨ (rxBase ≤ a ∧ a < rxBase + c.maxPkt) ∨
    (accBase ≤ a ∧ a < accBase + c.maxPkt)

/-- Memory is in canonical form and lists only buffer bytes, so no byte outside a buffer was ever written
(42_packet_rx.md R161, 43_serial_framer.md R194). -/
structure MemInv (s : State) : Prop where
  canonical : Memory.wf s.mem = true
  inside : ∀ c ∈ s.mem, inBuffers s.cfg c.1

/-- The decoder's index bounds (10_state.md R35, R36; 43_serial_framer.md R185). -/
structure DecoderInv (s : State) : Prop where
  idle_idx : s.decState = .idle → s.decIdx = 0x00#8
  idx_le : s.decIdx.toNat ≤ s.cfg.maxPkt
  frm_len_le : s.frmLen.toNat ≤ s.cfg.maxPkt

/-- The phase belongs to the operation's script (10_state.md R44). -/
def phaseOf (op : PeOp) (p : Phase) : Prop :=
  match op with
  | .none => True
  | .enc => p = .enc
  | .txp => p = .t1 ∨ p = .t2 ∨ p = .t3 ∨ p = .t4
  | .txr => p = .t1 ∨ p = .t2 ∨ p = .t3 ∨ p = .t4
  | .rxd => p = .x1 ∨ p = .x2 ∨ p = .x3 ∨ p = .x4 ∨ p = .x5 ∨ p = .x6 ∨ p = .x7

/-- PE runs a host command (10_state.md R27, R44). -/
def runsCommand (s : State) : Prop := s.peOp = .enc ∨ s.peOp = .txp ∨ s.peOp = .txr

/-- The packet engine's bookkeeping: BUSY (10_state.md R27), cmd_pend (R45), phases (R44), captured lengths (40_sequencer.md
R103), the encoder's index (43_serial_framer.md R182), IE and the tick count (41_packet_tx.md R134, 60_exceptions.md
R246). -/
structure EngineInv (s : State) : Prop where
  phase : phaseOf s.peOp s.pePhase
  busy_iff : s.busy = true ↔ s.cmdPend ≠ none ∨ runsCommand s
  pend_free : s.cmdPend ≠ none → ¬runsCommand s
  pend_len : ∀ c, s.cmdPend = some c → lenOk s.cfg c.op c.len = true
  enc_len : s.peOp = .enc → lenOk s.cfg .encSend s.peLen = true
  txp_len : s.peOp = .txp → lenOk s.cfg .txPacket s.peLen = true
  txr_len : s.peOp = .txr → lenOk s.cfg .txRaw s.peLen = true
  enc_idx : s.peOp = .enc → s.peI < (encodedSrc s).length
  tx_ie : transmitting s = true → s.ie = false
  wait_le : ∀ n, s.cfg.txWaitLimit = some n → s.peWait ≤ n ∧ (transmitting s = true → s.peWait < n)

/-- RX_DISPATCH: its trigger stays set (60_exceptions.md R243), the length latched for X3 and X4 fits (42_packet_rx.md
R155, R161), PKT_VALID holds exactly at X6 (R159, 44_control.md R215), the RX registers agree with the outcome table
(R164; 10_state.md R38 to R40), and RXBUF is zero outside X4, X6 and X7 (20_memory.md R63, 42_packet_rx.md R160). -/
structure ReceiveInv (s : State) : Prop where
  trigger : s.peOp = .rxd → s.ie = true ∧ s.ifg = true
  len_fits : s.peOp = .rxd → (s.pePhase = .x3 ∨ s.pePhase = .x4) → s.peL.toNat ≤ s.cfg.maxPkt
  len_over : s.peOp = .rxd → s.pePhase = .x5 → s.cfg.maxPkt < s.peL.toNat
  valid_iff : s.pktValid = true ↔ s.peOp = .rxd ∧ s.pePhase = .x6
  valid_result : s.pktValid = true → s.rxResult = ⟨true, true, false⟩
  nothing : s.rxResult.present = false →
    s.rxResult = ⟨false, false, false⟩ ∧ s.rxLen = 0x00#8 ∧ s.rxRssi = 0x00#8 ∧ s.rxLqiCrc = 0x00#8
  fits : s.rxResult.present = true → s.rxResult.oversize = false →
    s.rxLen.toNat ≤ s.cfg.maxPkt ∧ s.rxResult.crcOk = crcOk s.rxLqiCrc
  oversize : s.rxResult.oversize = true →
    s.rxResult = ⟨true, false, true⟩ ∧ s.cfg.maxPkt < s.rxLen.toNat ∧ s.rxRssi = 0x00#8 ∧ s.rxLqiCrc = 0x00#8
  rxbuf_clear : ¬(s.peOp = .rxd ∧ (s.pePhase = .x4 ∨ s.pePhase = .x6 ∨ s.pePhase = .x7)) →
    ∀ i, i < s.cfg.maxPkt → readByte s.mem (rxBase + i) = 0x00#8

/-- The legal states: the parameters are in range and every part's invariant holds. -/
structure State.Inv (s : State) : Prop where
  cfg : s.cfg.Ok
  mem : MemInv s
  decoder : DecoderInv s
  engine : EngineInv s
  receive : ReceiveInv s

/-- A quiescent state (40_sequencer.md R114). -/
def Quiescent (s : State) : Prop :=
  s.peOp = .none ∧ s.cmdPend = none ∧ s.frmValid = false ∧ s.pktValid = false ∧ ¬(s.ifg = true ∧ s.ie = true) ∧
    s.srx = none

/-- The move is a step of PE or DE, alone or with a partner (R100). -/
def isEngineMove : Move → Bool
  | .startCmd => true
  | .startRx => true
  | .stx => true
  | .radio _ => true
  | .pe => true
  | .feed => true
  | .hostRead _ => false
  | .hostWrite _ _ => false
  | .srx _ => false
  | .sig _ => false
  | .tick => false
  | .reset => false

/-- The move is a step of PE, alone or with a partner (R100). -/
def isPacketEngineMove (m : Move) : Bool := isEngineMove m && decide (m ≠ .feed)

/-- The step of `s` takes the move `m` and answers `t`, which is what the move itself answers: the move is first in the
queue and runs on the state without it, or with none queued it is one of the block's own (log 1, log 3). -/
def TakesMove (s : State) (m : Move) (t : State) : Prop :=
  step s = .next t ∧
    ((∃ ms, s.moves = m :: ms ∧ runMove m { s with moves := ms } = .next t) ∨
      (s.moves = [] ∧ m ∈ ownMoves s ∧ runMove m { s with turn := s.turn + 1 } = .next t))

/-- `k` steps of the machine, stopping at the first fault or refusal. -/
def run : Nat → State → Host.Outcome State Fault Refusal
  | 0, s => .next s
  | k + 1, s =>
    match step s with
    | .next t => run k t
    | .fault r => .fault r
    | .refused r => .refused r

/-- The serial source offers the bytes one by one and DE takes each: the moves that feed `bytes` to the decoder. -/
def feedMoves : List Byte → List Move
  | [] => []
  | b :: bs => .srx b :: .feed :: feedMoves bs

end Sys2Proof.Machine
end

