-- ==== Sys2Proof/WellFormed.lean ====
section
/-! DEFINITION. Which terms of Instr are instructions of the table: the rows' exclusions. -/

namespace Sys2Proof

/-- An instruction term matches its row: an illegal opcode is none of 0x01..0x04 (30_encoding.md R83), D2's byte is not
START (43_serial_framer.md R188), D6's byte is outside the reserved band (R192). The other rows exclude nothing. -/
def Instr.wellFormed : Instr → Bool
  | .illegalOpcode op => decide (op ≠ 0x01#8 ∧ op ≠ 0x02#8 ∧ op ≠ 0x03#8 ∧ op ≠ 0x04#8)
  | .feedIdleOther b => decide (b ≠ Machine.startByte)
  | .feedRecvData b => !Machine.reserved b
  | .encSend => true
  | .txPacket => true
  | .txRaw => true
  | .setup => true
  | .ackFrm _ _ => true
  | .ackPkt _ => true
  | .rxDispatch => true
  | .feed _ => true
  | .feedIdleStart => true
  | .feedRecvEsc => true
  | .feedRecvStart => true
  | .feedRecvEnd => true
  | .feedEscAny _ => true
  | .reset => true

end Sys2Proof
end

