-- ==== Sys2Proof/Certificates/Slice0/Obligations.lean ====
section
/-! DEFINITION. The statements for the provers. Addresses, opcodes and delimiters are written as the spec's numbers;
memory is read through `readByte` (SRC[i] at 0x100 + i, RXBUF[i] at 0x200 + i, ACC[i] at 0x300 + i). A statement about a
step gives the whole next state, so what it does not name is unchanged. -/

open Sys2Proof Sys2Proof.Machine

/-! ### Encodings -/

/-- Decoding the encoding of a well-formed instruction gives it back (30_encoding.md R82 to R86). That an ACK write with
both bits set is one instruction, ACK_FRM carrying the other bits, is the model's inference (log 12). -/
def Obligations.DecodeOfEncodeIsTheInstruction : Prop :=
  ∀ i : Instr, i.wellFormed = true → decode (encode i) = .ok i

/-- What decodes is well formed and encodes to the same token, ACK's ignored bits [7:3] apart (30_encoding.md R82, R84;
that an ACK write with both bits set is one instruction is the model's inference, log 12). -/
def Obligations.EncodeOfDecodeKeepsEveryBit : Prop :=
  ∀ (t : Token) (i : Instr), decode t = .ok i →
    i.wellFormed = true ∧ encode i = match t with
      | .ack v => .ack (v &&& 0x07#8)
      | other => other

/-- Words written out from the tables R82, R84 and R88 decode to their rows; ACK's bits [7:3] do not matter.
R84 gives an ACK byte with both FRM_ACK and PKT_ACK set (0x03, 0x07) no row of its own: that it is ACK_FRM carrying the
other bits is the model's inference (log 12). -/
def Obligations.WrittenOutWordsDecode : Prop :=
  decode (.cmd 0b00000001#8) = .ok .encSend ∧
  decode (.cmd 0b00000010#8) = .ok .txPacket ∧
  decode (.cmd 0b00000011#8) = .ok .txRaw ∧
  decode (.cmd 0b00000100#8) = .ok .setup ∧
  decode (.cmd 0b00000101#8) = .ok (.illegalOpcode 0x05#8) ∧
  decode (.ack 0b00000001#8) = .ok (.ackFrm false false) ∧
  decode (.ack 0b00000010#8) = .ok (.ackPkt false) ∧
  decode (.ack 0b00000110#8) = .ok (.ackPkt true) ∧
  decode (.ack 0b00000011#8) = .ok (.ackFrm true false) ∧
  decode (.ack 0b00000111#8) = .ok (.ackFrm true true) ∧
  (∀ v : Byte, decode (.ack v) = decode (.ack (v &&& 0x07#8))) ∧
  decode (.transition .idle 0b01111110#8) = .ok .feedIdleStart ∧
  decode (.transition .receiving 0b01111101#8) = .ok .feedRecvEsc ∧
  decode (.transition .receiving 0b01111110#8) = .ok .feedRecvStart ∧
  decode (.transition .receiving 0b01111111#8) = .ok .feedRecvEnd

/-! ### The step -/

/-- When the first move brings a token that decodes to `i`, the step is `i` on the state without that move. -/
def Obligations.StepRunsTheDecodedInstruction : Prop :=
  ∀ (s : State) (m : Move) (ms : List Move) (t : Token) (i : Instr),
    s.moves = m :: ms → fetchToken s m = some t → decode t = .ok i → step s = exec i { s with moves := ms }

/-- No step stops the block, and none changes its parameters (60_exceptions.md R230, 10_state.md R21). -/
def Obligations.StepAnswersNextAndKeepsTheParameters : Prop :=
  ∀ s : State, ∃ t, step s = .next t ∧ t.cfg = s.cfg

/-- Every step is one move: what it answers is what that move answers, run on the state without it (`TakesMove`). With a
move queued it is the first one; with none queued it is one of the block's own enabled steps, or none when no such step
is enabled. The queue and the block's own steps on an empty queue are the model's choices (logs 1 and 3;
40_sequencer.md R112). -/
def Obligations.EveryStepIsOneMove : Prop :=
  ∀ s t : State, step s = .next t →
    (s.moves = [] ∧ t = s ∧ ∀ m, m = .startCmd ∨ m = .startRx ∨ m = .pe ∨ m = .feed → enabled s m = false) ∨
      ∃ m, TakesMove s m t ∧ (s.moves = [] → enabled s m = true)

/-! ### Commands -/

/-- R102 with R103: a CMD write is ignored while BUSY, rejected by opcode, rejected by length, or accepted. -/
def Obligations.CommandWriteFollowsTheAcceptanceRule : Prop :=
  ∀ (s : State) (v : Byte) (ms : List Move), s.moves = .hostWrite 0x000#10 v :: ms →
    (s.busy = true → step s = .next { s with moves := ms }) ∧
    (s.busy = false → v ≠ 0x01#8 → v ≠ 0x02#8 → v ≠ 0x03#8 → v ≠ 0x04#8 →
      step s = .next { s with moves := ms, err := .badOpcode }) ∧
    ∀ op : Opcode,
      (v = 0x01#8 ∧ op = .encSend ∨ v = 0x02#8 ∧ op = .txPacket ∨ v = 0x03#8 ∧ op = .txRaw ∨ v = 0x04#8 ∧ op = .setup) →
      s.busy = false →
      if (op = .encSend → s.argLen.toNat ≤ s.cfg.maxPkt + 1) ∧ (op = .txPacket → s.argLen.toNat ≤ s.cfg.maxPkt - 1) ∧
          (op = .txRaw → 1 ≤ s.argLen.toNat ∧ s.argLen.toNat ≤ s.cfg.maxPkt + 1) then
        step s = .next { s with
          moves := ms, err := .none, busy := true, cmdPend := some ⟨op, s.argLen, s.argDest⟩ }
      else step s = .next { s with moves := ms, err := .badLen }

/-- ENC_SEND, TX_PACKET, TX_RAW and SETUP complete their offer: with BUSY = 0 and a legal length the command is pending
with its operands captured. -/
def Obligations.LegalCommandIsAccepted : Prop :=
  ∀ s : State, s.busy = false →
    (s.argLen.toNat ≤ s.cfg.maxPkt + 1 →
      exec .encSend s =
        .next { s with err := .none, busy := true, cmdPend := some ⟨.encSend, s.argLen, s.argDest⟩ }) ∧
    (s.argLen.toNat ≤ s.cfg.maxPkt - 1 →
      exec .txPacket s =
        .next { s with err := .none, busy := true, cmdPend := some ⟨.txPacket, s.argLen, s.argDest⟩ }) ∧
    (1 ≤ s.argLen.toNat → s.argLen.toNat ≤ s.cfg.maxPkt + 1 →
      exec .txRaw s = .next { s with err := .none, busy := true, cmdPend := some ⟨.txRaw, s.argLen, s.argDest⟩ }) ∧
    exec .setup s = .next { s with err := .none, busy := true, cmdPend := some ⟨.setup, s.argLen, s.argDest⟩ }

/-- R232: an illegal opcode offered while BUSY = 0 writes ERR <- 1 and nothing else. -/
def Obligations.IllegalOpcodeRaisesBadOpcode : Prop :=
  ∀ (s : State) (op : Byte), s.busy = false →
    (op = 0x00#8 ∨ 0x05 ≤ op.toNat) → exec (.illegalOpcode op) s = .next { s with err := .badOpcode }

/-- R233: a legal opcode with a length out of its range, offered while BUSY = 0, writes ERR <- 2 and nothing else. -/
def Obligations.BadLengthIsRejected : Prop :=
  ∀ s : State, s.busy = false →
    (s.cfg.maxPkt + 1 < s.argLen.toNat → exec .encSend s = .next { s with err := .badLen }) ∧
    (s.cfg.maxPkt - 1 < s.argLen.toNat → exec .txPacket s = .next { s with err := .badLen }) ∧
    (s.argLen.toNat = 0 ∨ s.cfg.maxPkt + 1 < s.argLen.toNat → exec .txRaw s = .next { s with err := .badLen })

/-- R266: while BUSY = 1 a host write to CMD, ARG_LEN, ARG_DEST or the SRC window has no effect and no report. -/
def Obligations.WritesWhileBusyAreLost : Prop :=
  ∀ (s : State) (a : HostAddr) (v : Byte) (ms : List Move), s.busy = true →
    (a = 0x000#10 ∨ a = 0x001#10 ∨ a = 0x002#10 ∨ (0x100 ≤ a.toNat ∧ a.toNat ≤ 0x1FF)) →
    s.moves = .hostWrite a v :: ms → step s = .next { s with moves := ms }

/-- R106: START_CMD takes the pending command and starts its operation; SETUP completes in this step. -/
def Obligations.StartCommandFollowsItsScript : Prop :=
  ∀ (s : State) (op : Opcode) (len dest : Byte) (ms : List Move), s.moves = .startCmd :: ms → s.peOp = .none →
    s.cmdPend = some ⟨op, len, dest⟩ →
    step s = .next (match op with
      | .encSend => { s with moves := ms, cmdPend := none, peLen := len, peDest := dest, peOp := .enc, pePhase := .enc, peI := 0 }
      | .txPacket => { s with
          moves := ms, cmdPend := none, peLen := len, peDest := dest, peOp := .txp, pePhase := .t1, ie := false, peWait := 0 }
      | .txRaw => { s with
          moves := ms, cmdPend := none, peLen := len, peDest := dest, peOp := .txr, pePhase := .t1, ie := false, peWait := 0 }
      | .setup => { s with moves := ms, cmdPend := none, peLen := len, peDest := dest, ie := true, busy := false })

/-- R104, R105, R109: while an operation runs neither START_CMD nor START_RX is enabled, and such a move then changes
nothing (the model's choice for a move that is not enabled, log 2); when PE is free and both are present, either may
start. -/
def Obligations.OneOperationAtATimeInEitherOrder : Prop :=
  (∀ (s : State) (ms : List Move), s.peOp ≠ .none → s.moves = .startCmd :: ms ∨ s.moves = .startRx :: ms →
    step s = .next { s with moves := ms }) ∧
  ∀ (s : State) (c : PendCmd) (ms : List Move), s.peOp = .none → s.cmdPend = some c → s.ifg = true → s.ie = true →
    (s.moves = .startCmd :: ms → ∃ t, step s = .next t ∧ t.cmdPend = none ∧ (c.op ≠ .setup → t.peOp ≠ .none)) ∧
    (s.moves = .startRx :: ms →
      step s = .next { s with moves := ms, peOp := .rxd, pePhase := .x1 })

/-! ### ENC_SEND -/

/-- R180: the length of Encode, its delimiters, and where reserved values occur in it. -/
def Obligations.EncodeObeysItsLengthAndBandLaws : Prop :=
  (∀ body : List Byte,
    (encodeFrame body).length = 2 + body.length + body.countP reserved ∧
    2 ≤ (encodeFrame body).length ∧ (encodeFrame body).length ≤ 2 + 2 * body.length ∧
    (encodeFrame body).head? = some 0x7E#8 ∧ (encodeFrame body).getLast? = some 0x7F#8 ∧
    ∀ i b, 0 < i → i + 1 < (encodeFrame body).length → (encodeFrame body)[i]? = some b → reserved b = true →
      b = 0x7D#8 ∧ ∃ c, (encodeFrame body)[i + 1]? = some c ∧ (c = 0x5D#8 ∨ c = 0x5E#8 ∨ c = 0x5F#8)) ∧
  ∀ b : Byte, reserved b = true → reserved (b ^^^ 0x20#8) = false

/-- R182: STX takes e[pe_i]; the step that takes the last byte also sets BUSY <- 0 and pe_op <- NONE (that pe_phase then
stays is the model's inference, log 7). -/
def Obligations.EncoderPutsOneByteAStep : Prop :=
  ∀ (s : State) (ms : List Move) (b : Byte), s.moves = .stx :: ms → s.peOp = .enc →
    (encodeFrame (readBytes s.mem 0x100 s.peLen.toNat))[s.peI]? = some b →
    step s = .next (
      if s.peI + 1 = (encodeFrame (readBytes s.mem 0x100 s.peLen.toNat)).length then
        { s with moves := ms, hist := s.hist ++ [.serialOut b], peI := s.peI + 1, busy := false, peOp := .none }
      else { s with moves := ms, hist := s.hist ++ [.serialOut b], peI := s.peI + 1 })

/-- R181, the whole operation: offered, started, and taken byte by byte, ENC_SEND puts out Encode(SRC[0..len)), one byte
a step in order, and completes with its last byte. That pe_phase ends as ENC.p is the model's inference (log 7). -/
def Obligations.EncSendSendsItsEncodedFrame : Prop :=
  ∀ (s : State) (e : List Byte) (ms : List Move), s.busy = false → s.peOp = .none →
    s.argLen.toNat ≤ s.cfg.maxPkt + 1 → e = encodeFrame (readBytes s.mem 0x100 s.argLen.toNat) →
    s.moves = .hostWrite 0x000#10 0x01#8 :: .startCmd :: (List.replicate e.length .stx ++ ms) →
    run (e.length + 2) s = .next { s with
      moves := ms, err := .none, busy := false, cmdPend := none, peLen := s.argLen, peDest := s.argDest, peOp := .none
      pePhase := .enc, peI := e.length, hist := s.hist ++ e.map .serialOut }

/-! ### TX_PACKET and TX_RAW -/

/-- R135, R136: T1 is one burst write of the packet, T2 one strobe of CMD_STX. -/
def Obligations.TransmitWritesThePacketThenStrobes : Prop :=
  ∀ (s : State) (ms : List Move), s.moves = .radio [] :: ms →
    (s.peOp = .txp → s.pePhase = .t1 → step s = .next { s with
      moves := ms, pePhase := .t2
      hist := s.hist ++
        [.radioWB s.cfg.aTxFifo ([s.peLen + 0x01#8, s.peDest] ++ readBytes s.mem 0x100 s.peLen.toNat)] }) ∧
    (s.peOp = .txr → s.pePhase = .t1 → step s = .next { s with
      moves := ms, pePhase := .t2
      hist := s.hist ++ [.radioWB s.cfg.aTxFifo (readBytes s.mem 0x100 s.peLen.toNat)] }) ∧
    (s.peOp = .txp ∨ s.peOp = .txr → s.pePhase = .t2 → step s = .next { s with
      moves := ms, pePhase := .t3, hist := s.hist ++ [.radioST s.cfg.cmdStx] })

/-- R137, R138, R139: T3 passes only with PKT_SIG = 1, T4 only with PKT_SIG = 0 and completes the transmit. That a step
not enabled changes nothing and that completion leaves pe_phase are the model's (logs 2 and 7). -/
def Obligations.TransmitWaitsForTheSignalLevels : Prop :=
  ∀ (s : State) (ms : List Move), s.moves = .pe :: ms → (s.peOp = .txp ∨ s.peOp = .txr) →
    (s.pePhase = .t3 → s.pktSig = true → step s = .next { s with moves := ms, pePhase := .t4 }) ∧
    (s.pePhase = .t3 → s.pktSig = false → step s = .next { s with moves := ms }) ∧
    (s.pePhase = .t4 → s.pktSig = false →
      step s = .next { s with moves := ms, ifg := false, ie := true, busy := false, peOp := .none }) ∧
    (s.pePhase = .t4 → s.pktSig = true → step s = .next { s with moves := ms })

/-- R140, R70: a tick counts in the waits of a transmit with a limit, times it out at the limit, and does nothing
otherwise. That a timeout leaves pe_phase is the model's inference (log 7). -/
def Obligations.TickCountsOrTimesOut : Prop :=
  ∀ (s : State) (ms : List Move), s.moves = .tick :: ms →
    (∀ n, s.cfg.txWaitLimit = some n → (s.peOp = .txp ∨ s.peOp = .txr) → (s.pePhase = .t3 ∨ s.pePhase = .t4) →
      step s = .next (
        if n ≤ s.peWait + 1 then { s with
          moves := ms, peWait := s.peWait + 1, ifg := false, ie := true, err := .txTimeout, busy := false, peOp := .none }
        else { s with moves := ms, peWait := s.peWait + 1 })) ∧
    (s.cfg.txWaitLimit = none ∨ ¬(s.peOp = .txp ∨ s.peOp = .txr) ∨ ¬(s.pePhase = .t3 ∨ s.pePhase = .t4) →
      step s = .next { s with moves := ms })

/-- R140 over a whole wait: with a limit n and no other move, the n-th tick of the transmit ends it with TX_TIMEOUT
(that pe_phase then stays is the model's inference, log 7). -/
def Obligations.TicksEndAWaitingTransmit : Prop :=
  ∀ (s : State) (n : Nat) (ms : List Move), s.cfg.txWaitLimit = some n → (s.peOp = .txp ∨ s.peOp = .txr) →
    (s.pePhase = .t3 ∨ s.pePhase = .t4) → s.peWait < n →
    s.moves = List.replicate (n - s.peWait) .tick ++ ms →
    run (n - s.peWait) s = .next { s with
      moves := ms, peWait := n, ifg := false, ie := true, err := .txTimeout, busy := false, peOp := .none }

/-- R131, R132, the whole operations: accepted and started with PE free, with RADIO taking both transactions and PKT_SIG
rising and falling, TX_PACKET sends the composed packet and TX_RAW the bytes as they stand; each then strobes, absorbs
the falling edge and leaves reception enabled (R139, R142, 70_reset_and_hazards.md R276). That pe_phase ends as T4 is the
model's inference (log 7). -/
def Obligations.TransmitSendsItsPacketAndEnablesReception : Prop :=
  ∀ (s : State) (ms : List Move), s.busy = false → s.peOp = .none →
    (s.argLen.toNat ≤ s.cfg.maxPkt - 1 →
      s.moves = [.hostWrite 0x000#10 0x02#8, .startCmd, .radio [], .radio [], .sig true, .pe, .sig false, .pe] ++ ms →
      run 8 s = .next { s with
        moves := ms, err := .none, cmdPend := none, peLen := s.argLen, peDest := s.argDest, pePhase := .t4, peWait := 0
        ie := true, ifg := false, pktSig := false
        hist := s.hist ++
          [.radioWB s.cfg.aTxFifo ([s.argLen + 0x01#8, s.argDest] ++ readBytes s.mem 0x100 s.argLen.toNat),
            .radioST s.cfg.cmdStx] }) ∧
    (1 ≤ s.argLen.toNat → s.argLen.toNat ≤ s.cfg.maxPkt + 1 →
      s.moves = [.hostWrite 0x000#10 0x03#8, .startCmd, .radio [], .radio [], .sig true, .pe, .sig false, .pe] ++ ms →
      run 8 s = .next { s with
        moves := ms, err := .none, cmdPend := none, peLen := s.argLen, peDest := s.argDest, pePhase := .t4, peWait := 0
        ie := true, ifg := false, pktSig := false
        hist := s.hist ++
          [.radioWB s.cfg.aTxFifo (readBytes s.mem 0x100 s.argLen.toNat), .radioST s.cfg.cmdStx] })

/-! ### RX_DISPATCH -/

/-- R107, R153: RX_DISPATCH is entered when PE is free, IFG = 1 and IE = 1, and changes only pe_op and the phase; without
its trigger it is not entered, and the instruction then changes nothing (the model's choice, log 2). -/
def Obligations.RxDispatchEntersOnItsTrigger : Prop :=
  ∀ s : State,
    (s.peOp = .none → s.ifg = true → s.ie = true →
      exec .rxDispatch s = .next { s with peOp := .rxd, pePhase := .x1 }) ∧
    (s.peOp ≠ .none ∨ s.ifg = false ∨ s.ie = false → exec .rxDispatch s = .next s)

/-- R154: X1 reads the occupancy; zero bytes available ends the operation with all RX registers zero. -/
def Obligations.OccupancyReadDecides : Prop :=
  ∀ (s : State) (v : Byte) (ms : List Move), s.moves = .radio [v] :: ms → s.peOp = .rxd → s.pePhase = .x1 →
    (occCount s.cfg v = 0 → step s = .next { s with
      moves := ms, hist := s.hist ++ [.radioRS s.cfg.aRxBytes v], rxResult := ⟨false, false, false⟩, rxLen := 0x00#8
      rxRssi := 0x00#8, rxLqiCrc := 0x00#8, pePhase := .x7 }) ∧
    (occCount s.cfg v ≠ 0 → step s = .next { s with
      moves := ms, hist := s.hist ++ [.radioRS s.cfg.aRxBytes v], pePhase := .x2 })

/-- R155: X2 latches the length byte and goes on to X3 if it fits, else to X5. -/
def Obligations.LengthByteDecides : Prop :=
  ∀ (s : State) (l : Byte) (ms : List Move), s.moves = .radio [l] :: ms → s.peOp = .rxd → s.pePhase = .x2 →
    (l.toNat ≤ s.cfg.maxPkt → step s = .next { s with
      moves := ms, hist := s.hist ++ [.radioRR s.cfg.aRxFifo l], peL := l, pePhase := .x3 }) ∧
    (s.cfg.maxPkt < l.toNat → step s = .next { s with
      moves := ms, hist := s.hist ++ [.radioRR s.cfg.aRxFifo l], peL := l, pePhase := .x5 })

/-- R156: X3 writes RXBUF[i] <- s[i] for i < pe_L, leaves every other byte, and goes to X4; the transaction is issued
also with count 0. -/
def Obligations.PayloadBurstFillsRxbuf : Prop :=
  ∀ (s : State) (data : List Byte) (ms : List Move), Memory.wf s.mem = true → s.moves = .radio data :: ms →
    s.peOp = .rxd → s.pePhase = .x3 → data.length = s.peL.toNat →
    ∃ mem',
      step s = .next { s with
        moves := ms, hist := s.hist ++ [.radioRB s.cfg.aRxFifo s.peL.toNat data], mem := mem', pePhase := .x4 } ∧
      (∀ i, (h : i < data.length) → readByte mem' (0x200 + i) = data[i]) ∧
      ∀ a, a < 0x200 ∨ 0x200 + s.peL.toNat ≤ a → readByte mem' a = readByte s.mem a

/-- R157 with R150: X4 records the status bytes; bit 7 of the second gates the delivery. -/
def Obligations.StatusBurstGatesDelivery : Prop :=
  ∀ (s : State) (r q : Byte) (ms : List Move), s.moves = .radio [r, q] :: ms → s.peOp = .rxd → s.pePhase = .x4 →
    (q.getLsbD 7 = true → step s = .next { s with
      moves := ms, hist := s.hist ++ [.radioRB s.cfg.aRxFifo 2 [r, q]], rxRssi := r, rxLqiCrc := q, rxLen := s.peL
      rxResult := ⟨true, true, false⟩, pktValid := true, pePhase := .x6 }) ∧
    (q.getLsbD 7 = false → step s = .next { s with
      moves := ms, hist := s.hist ++ [.radioRB s.cfg.aRxFifo 2 [r, q]], rxRssi := r, rxLqiCrc := q, rxLen := s.peL
      rxResult := ⟨true, false, false⟩, pePhase := .x7 })

/-- R158: X5 is one flush strobe; the RX registers say oversize. -/
def Obligations.OversizeFlushes : Prop :=
  ∀ (s : State) (ms : List Move), s.moves = .radio [] :: ms → s.peOp = .rxd → s.pePhase = .x5 →
    step s = .next { s with
      moves := ms, hist := s.hist ++ [.radioST s.cfg.cmdSfrx], rxLen := s.peL, rxRssi := 0x00#8, rxLqiCrc := 0x00#8
      rxResult := ⟨true, false, true⟩, pePhase := .x7 }

/-- R160: X7 zeroes RXBUF[i] for every i < MAX_PKT and no other byte, clears IFG and frees PE (that pe_phase stays is the
model's inference, log 7). -/
def Obligations.ReturnZeroesRxbuf : Prop :=
  ∀ (s : State) (ms : List Move), s.moves = .pe :: ms → s.peOp = .rxd → s.pePhase = .x7 →
    ∃ mem', step s = .next { s with moves := ms, mem := mem', ifg := false, peOp := .none } ∧
      ∀ a, readByte mem' a = if 0x200 ≤ a ∧ a < 0x200 + s.cfg.maxPkt then 0x00#8 else readByte s.mem a

/-- R151, the whole operation on a good packet: after START_RX the four answers of RADIO put the packet on offer, readable
in the RXBUF window (20_memory.md R63), and PKT_ACK delivers it, with Wake when asked, after which RXBUF is zero. That
pe_phase ends as X7 is the model's inference (log 7). -/
def Obligations.GoodPacketIsDelivered : Prop :=
  ∀ (s : State) (v l r q : Byte) (data : List Byte) (w : Bool) (ms : List Move), Memory.wf s.mem = true →
    s.peOp = .none → s.ifg = true → s.ie = true → occCount s.cfg v ≠ 0 → l.toNat ≤ s.cfg.maxPkt →
    data.length = l.toNat → q.getLsbD 7 = true →
    s.moves = [.startRx, .radio [v], .radio [l], .radio data, .radio [r, q],
      .hostWrite 0x004#10 (if w then 0x06#8 else 0x02#8), .pe] ++ ms →
    (∃ u, run 5 s = .next u ∧ u.pktValid = true ∧ u.rxLen = l ∧
      ∀ (a : HostAddr) (i : Nat), (h : i < data.length) → a.toNat = 0x200 + i → hostRead u a = data[i]) ∧
    ∃ mem', run 7 s = .next { s with
        moves := ms, pePhase := .x7, peL := l, rxLen := l, rxRssi := r, rxLqiCrc := q, rxResult := ⟨true, true, false⟩
        pktValid := false, ifg := false, mem := mem'
        hist := s.hist ++
          ([.radioRS s.cfg.aRxBytes v, .radioRR s.cfg.aRxFifo l, .radioRB s.cfg.aRxFifo l.toNat data,
            .radioRB s.cfg.aRxFifo 2 [r, q], .packet data w] ++ if w then [.wake] else []) } ∧
      ∀ a, readByte mem' a = if 0x200 ≤ a ∧ a < 0x200 + s.cfg.maxPkt then 0x00#8 else readByte s.mem a

/-- R164, the failed receptions: a bad CRC and an oversized length byte deliver nothing, the oversized one with exactly
one flush strobe and no burst read; IFG is cleared and RXBUF zero after each. That pe_phase ends as X7 is the model's
inference (log 7). -/
def Obligations.FailedReceptionsDeliverNothing : Prop :=
  ∀ (s : State) (v l r q : Byte) (data : List Byte) (ms : List Move), Memory.wf s.mem = true →
    s.peOp = .none → s.ifg = true → s.ie = true → occCount s.cfg v ≠ 0 →
    (l.toNat ≤ s.cfg.maxPkt → data.length = l.toNat → q.getLsbD 7 = false →
      s.moves = [.startRx, .radio [v], .radio [l], .radio data, .radio [r, q], .pe] ++ ms →
      ∃ mem', run 6 s = .next { s with
          moves := ms, pePhase := .x7, peL := l, rxLen := l, rxRssi := r, rxLqiCrc := q
          rxResult := ⟨true, false, false⟩, ifg := false, mem := mem'
          hist := s.hist ++ [.radioRS s.cfg.aRxBytes v, .radioRR s.cfg.aRxFifo l, .radioRB s.cfg.aRxFifo l.toNat data,
            .radioRB s.cfg.aRxFifo 2 [r, q]] } ∧
        ∀ a, readByte mem' a = if 0x200 ≤ a ∧ a < 0x200 + s.cfg.maxPkt then 0x00#8 else readByte s.mem a) ∧
    (s.cfg.maxPkt < l.toNat →
      s.moves = [.startRx, .radio [v], .radio [l], .radio [], .pe] ++ ms →
      ∃ mem', run 5 s = .next { s with
          moves := ms, pePhase := .x7, peL := l, rxLen := l, rxRssi := 0x00#8, rxLqiCrc := 0x00#8
          rxResult := ⟨true, false, true⟩, ifg := false, mem := mem'
          hist := s.hist ++ [.radioRS s.cfg.aRxBytes v, .radioRR s.cfg.aRxFifo l, .radioST s.cfg.cmdSfrx] } ∧
        ∀ a, readByte mem' a = if 0x200 ≤ a ∧ a < 0x200 + s.cfg.maxPkt then 0x00#8 else readByte s.mem a)

/-- R157, R159 over the whole machine: PKT_VALID rises only at X4 with bit 7 of the second status byte set, and falls only
by an ACK write with PKT_ACK or by RESET. -/
def Obligations.PacketIsOfferedOnlyByTheCrcGate : Prop :=
  ∀ (s t : State) (m : Move), TakesMove s m t →
    (s.pktValid = false → t.pktValid = true →
      s.peOp = .rxd ∧ s.pePhase = .x4 ∧ ∃ r q, m = .radio [r, q] ∧ q.getLsbD 7 = true) ∧
    (s.pktValid = true → t.pktValid = false →
      m = .reset ∨ ∃ v : Byte, m = .hostWrite 0x004#10 v ∧ v.getLsbD 1 = true)

/-! ### ACK -/

/-- R214: FRM_ACK with a frame on offer emits the frame and clears FRM_VALID. -/
def Obligations.FrameAckDeliversTheFrame : Prop :=
  ∀ (s : State) (wake : Bool), s.frmValid = true →
    exec (.ackFrm false wake) s = .next { s with
      hist := s.hist ++ [.frame (readBytes s.mem 0x300 s.frmLen.toNat)], frmValid := false }

/-- R216: PKT_ACK with a packet on offer emits the packet, and Wake when asked, and moves on to X7. -/
def Obligations.PacketAckDeliversThePacket : Prop :=
  ∀ (s : State) (wake : Bool), s.pktValid = true →
    exec (.ackPkt wake) s = .next { s with
      hist := s.hist ++
        (.packet (readBytes s.mem 0x200 s.rxLen.toNat) wake :: if wake then [Event.wake] else [])
      pktValid := false, pePhase := .x7 }

/-- R212, R84: one ACK write may acknowledge both; both parts act in that one step. -/
def Obligations.OneWriteMayAcknowledgeBoth : Prop :=
  ∀ (s : State) (wake : Bool), s.frmValid = true → s.pktValid = true →
    exec (.ackFrm true wake) s = .next { s with
      hist := s.hist ++
        (.frame (readBytes s.mem 0x300 s.frmLen.toNat) :: .packet (readBytes s.mem 0x200 s.rxLen.toNat) wake ::
          if wake then [Event.wake] else [])
      frmValid := false, pktValid := false, pePhase := .x7 }

/-- R215: an ACK bit with nothing on offer is ignored, and so is WAKE without PKT_ACK. -/
def Obligations.AckOfNothingChangesNothing : Prop :=
  ∀ (s : State) (wake : Bool),
    (s.frmValid = false → exec (.ackFrm false wake) s = .next s) ∧
    (s.pktValid = false → exec (.ackPkt wake) s = .next s) ∧
    (s.frmValid = false → exec (.ackFrm true wake) s = exec (.ackPkt wake) s) ∧
    (s.pktValid = false → exec (.ackFrm true wake) s = exec (.ackFrm false wake) s) ∧
    ∀ (v : Byte) (ms : List Move), v.getLsbD 0 = false → v.getLsbD 1 = false → s.moves = .hostWrite 0x004#10 v :: ms →
      step s = .next { s with moves := ms }

/-! ### FEED -/

/-- R186: FEED takes the byte and does what the transition of (DEC_STATE, b) says, the row the decoder selects; it waits
while a frame is on offer or another byte is. -/
def Obligations.FeedDispatchesByStateAndByte : Prop :=
  ∀ (s : State) (b : Byte),
    (s.srx = some b → s.frmValid = false →
      ∃ t i, decode (.transition s.decState b) = .ok i ∧ exec (.feed b) s = .next t ∧ exec i s = .next t ∧
        t.srx = none ∧ t.hist = s.hist ∧ t.peOp = s.peOp ∧ t.pePhase = s.pePhase) ∧
    (s.srx ≠ some b ∨ s.frmValid = true → exec (.feed b) s = .next s)

/-- R187 to R190: START in IDLE starts a frame, any other byte in IDLE is discarded, ESC in RECEIVING is held, START in
RECEIVING restarts the frame. -/
def Obligations.StartAndEscapeTransitions : Prop :=
  ∀ s : State, s.frmValid = false →
    (s.srx = some 0x7E#8 → s.decState = .idle →
      exec .feedIdleStart s = .next { s with srx := none, decState := .receiving, decIdx := 0x00#8 }) ∧
    (∀ b : Byte, b ≠ 0x7E#8 → s.srx = some b → s.decState = .idle →
      exec (.feedIdleOther b) s = .next { s with srx := none }) ∧
    (s.srx = some 0x7D#8 → s.decState = .receiving →
      exec .feedRecvEsc s = .next { s with srx := none, decState := .escapePending }) ∧
    (s.srx = some 0x7E#8 → s.decState = .receiving →
      exec .feedRecvStart s = .next { s with srx := none, decIdx := 0x00#8 })

/-- R191: END in RECEIVING puts the frame ACC[0..DEC_IDX) on offer. -/
def Obligations.EndByteCompletesTheFrame : Prop :=
  ∀ s : State, s.srx = some 0x7F#8 → s.frmValid = false → s.decState = .receiving →
    exec .feedRecvEnd s = .next { s with
      srx := none, frmLen := s.decIdx, frmValid := true, decState := .idle, decIdx := 0x00#8 }

/-- R192, R194: a data byte in RECEIVING is appended at DEC_IDX and no other byte of memory changes; at DEC_IDX = MAX_PKT
it is dropped with the partial frame and no byte is written. -/
def Obligations.DataByteIsAppendedOrOverflows : Prop :=
  ∀ (s : State) (b : Byte), Memory.wf s.mem = true → s.srx = some b → s.frmValid = false → s.decState = .receiving →
    b ≠ 0x7D#8 → b ≠ 0x7E#8 → b ≠ 0x7F#8 →
    (s.decIdx.toNat < s.cfg.maxPkt → ∃ mem',
      exec (.feedRecvData b) s = .next { s with srx := none, mem := mem', decIdx := s.decIdx + 0x01#8 } ∧
      readByte mem' (0x300 + s.decIdx.toNat) = b ∧
      ∀ a, a ≠ 0x300 + s.decIdx.toNat → readByte mem' a = readByte s.mem a) ∧
    (s.decIdx.toNat = s.cfg.maxPkt →
      exec (.feedRecvData b) s = .next { s with srx := none, decState := .idle, decIdx := 0x00#8 })

/-- R193, R194: any byte in ESCAPE_PENDING, START and END included, is appended as b XOR 0x20; at DEC_IDX = MAX_PKT it is
dropped with the partial frame. -/
def Obligations.EscapedByteIsAppendedOrOverflows : Prop :=
  ∀ (s : State) (b : Byte), Memory.wf s.mem = true → s.srx = some b → s.frmValid = false →
    s.decState = .escapePending →
    (s.decIdx.toNat < s.cfg.maxPkt → ∃ mem',
      exec (.feedEscAny b) s =
        .next { s with srx := none, mem := mem', decState := .receiving, decIdx := s.decIdx + 0x01#8 } ∧
      readByte mem' (0x300 + s.decIdx.toNat) = b ^^^ 0x20#8 ∧
      ∀ a, a ≠ 0x300 + s.decIdx.toNat → readByte mem' a = readByte s.mem a) ∧
    (s.decIdx.toNat = s.cfg.maxPkt →
      exec (.feedEscAny b) s = .next { s with srx := none, decState := .idle, decIdx := 0x00#8 })

/-- R195: feeding Encode(body) from IDLE or RECEIVING delivers exactly body, touching nothing of memory but
ACC[0..len(body)). -/
def Obligations.EncodedBodyDecodesToItself : Prop :=
  ∀ (s : State) (body : List Byte) (ms : List Move), s.cfg.Ok → Memory.wf s.mem = true → s.frmValid = false →
    s.decState = .idle ∨ s.decState = .receiving → s.srx = none → body.length ≤ s.cfg.maxPkt →
    s.moves = feedMoves (encodeFrame body) ++ ms →
    ∃ t, run (feedMoves (encodeFrame body)).length s = .next t ∧
      t = { s with
        moves := ms, mem := t.mem, frmValid := true, frmLen := t.frmLen, decState := .idle, decIdx := 0x00#8 } ∧
      t.frmLen.toNat = body.length ∧ readBytes t.mem 0x300 t.frmLen.toNat = body ∧
      ∀ a, a < 0x300 ∨ 0x300 + body.length ≤ a → readByte t.mem a = readByte s.mem a

/-- R196: START, 0x41, START, 0x42, END delivers exactly one frame, [0x42]: none is on offer before the END. -/
def Obligations.ResynchronisationDeliversOneFrame : Prop :=
  ∀ (s : State) (ms : List Move), s.cfg.Ok → Memory.wf s.mem = true → s.frmValid = false →
    s.decState ≠ .escapePending → s.srx = none →
    s.moves = feedMoves [0x7E#8, 0x41#8, 0x7E#8, 0x42#8, 0x7F#8] ++ ms →
    (∀ k u, k < 10 → run k s = .next u → u.frmValid = false) ∧
    ∃ t, run 10 s = .next t ∧ t.frmValid = true ∧ t.frmLen = 0x01#8 ∧ readBytes t.mem 0x300 1 = [0x42#8] ∧
      t.hist = s.hist ∧ t.moves = ms ∧ t.decState = .idle

/-- R194 (the source's overflow property): START, more than MAX_PKT bytes outside the reserved band, END yields no
completed frame and leaves the decoder in IDLE. -/
def Obligations.OverlongFrameIsDiscarded : Prop :=
  ∀ (s : State) (body : List Byte) (ms : List Move), s.cfg.Ok → s.frmValid = false → s.decState ≠ .escapePending →
    s.srx = none → (∀ b ∈ body, reserved b = false) → s.cfg.maxPkt < body.length →
    s.moves = feedMoves ([0x7E#8] ++ body ++ [0x7F#8]) ++ ms →
    (∀ k u, k ≤ (feedMoves ([0x7E#8] ++ body ++ [0x7F#8])).length → run k s = .next u → u.frmValid = false) ∧
    ∃ t, run (feedMoves ([0x7E#8] ++ body ++ [0x7F#8])).length s = .next t ∧
      t = { s with moves := ms, mem := t.mem, decState := .idle, decIdx := 0x00#8 } ∧
      ∀ a, a < 0x300 ∨ 0x300 + s.cfg.maxPkt ≤ a → readByte t.mem a = readByte s.mem a

/-! ### The environment's inputs -/

/-- R68, R69: SRX offers a byte only when none is on offer; a byte waits while a frame is on offer; a falling edge of
PKT_SIG sets IFG whatever IE is, and no other SIG step changes IFG. That an SRX move with a byte on offer and a FEED move
with a frame on offer change nothing is the model's choice for a move that is not enabled (log 2). -/
def Obligations.InputsOfTheEnvironment : Prop :=
  ∀ (s : State) (ms : List Move),
    (∀ b, s.moves = .srx b :: ms → s.srx = none → step s = .next { s with moves := ms, srx := some b }) ∧
    (∀ b, s.moves = .srx b :: ms → s.srx ≠ none → step s = .next { s with moves := ms }) ∧
    (s.moves = .feed :: ms → s.frmValid = true → step s = .next { s with moves := ms }) ∧
    (s.moves = .sig false :: ms → s.pktSig = true →
      step s = .next { s with moves := ms, pktSig := false, ifg := true }) ∧
    (∀ level, s.moves = .sig level :: ms → ¬(s.pktSig = true ∧ level = false) →
      step s = .next { s with moves := ms, pktSig := level })

/-! ### RESET -/

/-- R49, R260, R262: RESET sets every piece of block state to its reset value and leaves PKT_SIG, srx and hist (and the
model's own fields, log 18). -/
def Obligations.ResetSetsEveryPieceOfBlockState : Prop :=
  ∀ s : State, exec .reset s = .next
    { cfg := s.cfg, argLen := 0x00#8, argDest := 0x00#8, busy := false, err := .none, ie := false, ifg := false
      frmValid := false, pktValid := false, decState := .idle, decIdx := 0x00#8, frmLen := 0x00#8
      rxResult := ⟨false, false, false⟩, rxLen := 0x00#8, rxRssi := 0x00#8, rxLqiCrc := 0x00#8, mem := []
      peOp := .none, pePhase := .none, peLen := 0x00#8, peDest := 0x00#8, peI := 0, peL := 0x00#8, peWait := 0
      cmdPend := none, pktSig := s.pktSig, srx := s.srx, hist := s.hist, readData := s.readData, moves := s.moves
      turn := s.turn }

/-- R261: after a reset step every host-visible register and every buffer byte reads 0x00. -/
def Obligations.EverythingReadsZeroAfterReset : Prop :=
  ∀ (s t : State) (a : HostAddr), exec .reset s = .next t → hostRead t a = 0x00#8

/-! ### The host port -/

/-- R26, R210: a read of STATUS shows each flag at its bit and ERR in bits [3:1]. -/
def Obligations.StatusReadsItsFlags : Prop :=
  ∀ s : State,
    (hostRead s 0x003#10).getLsbD 0 = s.busy ∧
    (hostRead s 0x003#10).extractLsb' 1 3 =
      (match s.err with
        | .none => 0#3
        | .badOpcode => 1#3
        | .badLen => 2#3
        | .txTimeout => 3#3) ∧
    (hostRead s 0x003#10).getLsbD 4 = s.ie ∧ (hostRead s 0x003#10).getLsbD 5 = s.ifg ∧
    (hostRead s 0x003#10).getLsbD 6 = s.frmValid ∧ (hostRead s 0x003#10).getLsbD 7 = s.pktValid

/-- R60 to R65, R210: a host read changes nothing of the block and returns the register or buffer byte at its address, and
0x00 at CMD, ACK and every reserved address. That the step records the returned byte in the field readData is the model's
choice (log 9). -/
def Obligations.HostReadsFollowTheAddressMap : Prop :=
  ∀ (s : State) (a : HostAddr), s.cfg.Ok →
    (∀ ms, s.moves = .hostRead a :: ms → step s = .next { s with moves := ms, readData := some (hostRead s a) }) ∧
    (a = 0x000#10 ∨ a = 0x004#10 → hostRead s a = 0x00#8) ∧
    (a = 0x001#10 → hostRead s a = s.argLen) ∧ (a = 0x002#10 → hostRead s a = s.argDest) ∧
    (a = 0x005#10 → hostRead s a =
      match s.decState with
      | .idle => 0x00#8
      | .receiving => 0x01#8
      | .escapePending => 0x02#8) ∧
    (a = 0x006#10 → hostRead s a = s.decIdx) ∧ (a = 0x007#10 → hostRead s a = s.frmLen) ∧
    (a = 0x008#10 → ∀ i, (hostRead s a).getLsbD i =
      (decide (i = 0) && s.rxResult.present || decide (i = 1) && s.rxResult.crcOk ||
        decide (i = 2) && s.rxResult.oversize)) ∧
    (a = 0x009#10 → hostRead s a = s.rxLen) ∧ (a = 0x00A#10 → hostRead s a = s.rxRssi) ∧
    (a = 0x00B#10 → hostRead s a = s.rxLqiCrc) ∧
    (0x00C ≤ a.toNat → a.toNat ≤ 0x0FF → hostRead s a = 0x00#8) ∧
    (∀ i, a.toNat = 0x100 + i → i ≤ 0xFF →
      hostRead s a = if i < s.cfg.maxPkt + 1 then readByte s.mem (0x100 + i) else 0x00#8) ∧
    (∀ i, a.toNat = 0x200 + i → i ≤ 0xFF →
      hostRead s a = if i < s.cfg.maxPkt then readByte s.mem (0x200 + i) else 0x00#8) ∧
    (∀ i, a.toNat = 0x300 + i → i ≤ 0xFF →
      hostRead s a = if i < s.cfg.maxPkt then readByte s.mem (0x300 + i) else 0x00#8)

/-- R62, R65, R212, R213, R217: with BUSY = 0 a host write stores at ARG_LEN, ARG_DEST and SRC, one byte each; whatever
BUSY, every address but CMD, ACK and these ignores it. -/
def Obligations.HostWritesStoreOrAreIgnored : Prop :=
  ∀ (s : State) (a : HostAddr) (v : Byte) (ms : List Move), s.cfg.Ok → Memory.wf s.mem = true →
    s.moves = .hostWrite a v :: ms →
    (s.busy = false → a = 0x001#10 → step s = .next { s with moves := ms, argLen := v }) ∧
    (s.busy = false → a = 0x002#10 → step s = .next { s with moves := ms, argDest := v }) ∧
    (s.busy = false → 0x100 ≤ a.toNat → a.toNat < 0x100 + (s.cfg.maxPkt + 1) →
      ∃ mem', step s = .next { s with moves := ms, mem := mem' } ∧ readByte mem' a.toNat = v ∧
        ∀ b, b ≠ a.toNat → readByte mem' b = readByte s.mem b) ∧
    (a = 0x003#10 ∨ (0x005 ≤ a.toNat ∧ a.toNat ≤ 0x0FF) ∨
        (0x100 + (s.cfg.maxPkt + 1) ≤ a.toNat ∧ a.toNat ≤ 0x1FF) ∨ 0x200 ≤ a.toNat →
      step s = .next { s with moves := ms })

/-! ### The whole machine -/

/-- Every step keeps the invariant of legal states (`State.Inv`): parameters in range, memory canonical and inside the
buffers, and the decoder, engine and receive bookkeeping of the spec's rules. -/
def Obligations.StepKeepsTheInvariant : Prop :=
  ∀ s t : State, s.Inv → step s = .next t → t.Inv

/-- The machine at launch meets the invariant; its parameters are the spec's defaults (log 5). -/
def Obligations.LaunchMeetsTheInvariant : Prop := State.reset.Inv

/-- R110, R241: a FEED step and a step of PE, alone or with its partner, commute: taken in either order they end in the
same state (also where one of the two is not enabled and so changes nothing, the model's choice, log 2). -/
def Obligations.FeedCommutesWithThePacketEngine : Prop :=
  ∀ (s : State) (m : Move) (ms : List Move), s.cfg.Ok → Memory.wf s.mem = true → isPacketEngineMove m = true →
    s.moves = m :: .feed :: ms →
    ∃ t, run 2 s = .next t ∧ run 2 { s with moves := .feed :: m :: ms } = .next t

/-- R41, R78: SRC changes only by a host write to its window while BUSY = 0, or by RESET; so do ARG_LEN and ARG_DEST by
writes to their addresses. So a command's operands stand still while it runs. -/
def Obligations.OperandsChangeOnlyByHostWritesWhileIdle : Prop :=
  ∀ (s t : State) (m : Move), TakesMove s m t → m ≠ .reset →
    (t.argLen ≠ s.argLen → s.busy = false ∧ m = .hostWrite 0x001#10 t.argLen) ∧
    (t.argDest ≠ s.argDest → s.busy = false ∧ m = .hostWrite 0x002#10 t.argDest) ∧
    ∀ i, i < 0x100 → readByte t.mem (0x100 + i) ≠ readByte s.mem (0x100 + i) →
      s.busy = false ∧ ∃ (a : HostAddr) (v : Byte), m = .hostWrite a v ∧ a.toNat = 0x100 + i

/-- R76: while a frame stays on offer ACC, FRM_LEN and the decoder stand still, and while a packet stays on offer RXBUF and
the RX registers do. -/
def Obligations.DeliveriesStandStillWhileOnOffer : Prop :=
  ∀ s t : State, s.Inv → step s = .next t →
    (s.frmValid = true → t.frmValid = true →
      t.frmLen = s.frmLen ∧ t.decState = s.decState ∧ t.decIdx = s.decIdx ∧
        ∀ i, i < s.cfg.maxPkt → readByte t.mem (0x300 + i) = readByte s.mem (0x300 + i)) ∧
    (s.pktValid = true → t.pktValid = true →
      t.rxResult = s.rxResult ∧ t.rxLen = s.rxLen ∧ t.rxRssi = s.rxRssi ∧ t.rxLqiCrc = s.rxLqiCrc ∧
        ∀ i, i < s.cfg.maxPkt → readByte t.mem (0x200 + i) = readByte s.mem (0x200 + i))

/-- R27, R28, R108: the writers of BUSY and ERR. BUSY rises only when a CMD write is accepted and falls only at a
completion or RESET; ERR changes only by a CMD write, a transmit's timeout or RESET. -/
def Obligations.BusyAndErrorHaveOnlyTheirWriters : Prop :=
  ∀ (s t : State) (m : Move), TakesMove s m t →
    (s.busy = false → t.busy = true → t.err = .none ∧ ∃ v op, m = .hostWrite 0x000#10 v ∧
      t.cmdPend = some ⟨op, s.argLen, s.argDest⟩) ∧
    (s.busy = true → t.busy = false →
      (m = .stx ∧ s.peOp = .enc ∧ s.peI + 1 = (encodeFrame (readBytes s.mem 0x100 s.peLen.toNat)).length) ∨
      (m = .pe ∧ (s.peOp = .txp ∨ s.peOp = .txr) ∧ s.pePhase = .t4 ∧ s.pktSig = false) ∨
      (m = .tick ∧ (s.peOp = .txp ∨ s.peOp = .txr) ∧ (s.pePhase = .t3 ∨ s.pePhase = .t4) ∧ t.err = .txTimeout) ∨
      (m = .startCmd ∧ s.peOp = .none ∧ ∃ c, s.cmdPend = some c ∧ c.op = .setup) ∨ m = .reset) ∧
    (t.err ≠ s.err →
      (s.busy = false ∧ t.err ≠ .txTimeout ∧ ∃ v, m = .hostWrite 0x000#10 v) ∨
      (m = .tick ∧ t.err = .txTimeout ∧ (s.peOp = .txp ∨ s.peOp = .txr) ∧ (s.pePhase = .t3 ∨ s.pePhase = .t4)) ∨
      m = .reset)

/-- R29: the writers of IE. SETUP's start, the end of a transmit and its timeout set it; a transmit's start and RESET
clear it; nothing else does. -/
def Obligations.EnableBitHasOnlyItsWriters : Prop :=
  ∀ (s t : State) (m : Move), TakesMove s m t →
    (s.ie = false → t.ie = true →
      (m = .startCmd ∧ s.peOp = .none ∧ ∃ c, s.cmdPend = some c ∧ c.op = .setup) ∨
      (m = .pe ∧ (s.peOp = .txp ∨ s.peOp = .txr) ∧ s.pePhase = .t4 ∧ s.pktSig = false) ∨
      (m = .tick ∧ (s.peOp = .txp ∨ s.peOp = .txr) ∧ (s.pePhase = .t3 ∨ s.pePhase = .t4) ∧ t.err = .txTimeout)) ∧
    (s.ie = true → t.ie = false →
      (m = .startCmd ∧ s.peOp = .none ∧ ∃ c, s.cmdPend = some c ∧ (c.op = .txPacket ∨ c.op = .txRaw)) ∨ m = .reset)

/-- R30: the writers of IFG. A falling edge of PKT_SIG sets it; the end of a transmit, its timeout, X7 and RESET clear it;
nothing else does. -/
def Obligations.EdgeLatchHasOnlyItsWriters : Prop :=
  ∀ (s t : State) (m : Move), TakesMove s m t →
    (s.ifg = false → t.ifg = true → m = .sig false ∧ s.pktSig = true) ∧
    (s.ifg = true → t.ifg = false →
      (m = .pe ∧ (s.peOp = .txp ∨ s.peOp = .txr) ∧ s.pePhase = .t4 ∧ s.pktSig = false) ∨
      (m = .pe ∧ s.peOp = .rxd ∧ s.pePhase = .x7) ∨
      (m = .tick ∧ (s.peOp = .txp ∨ s.peOp = .txr) ∧ (s.pePhase = .t3 ∨ s.pePhase = .t4) ∧ t.err = .txTimeout) ∨
      m = .reset)

/-- R184, R34, R35: only FEED and RESET change DEC_STATE, DEC_IDX, FRM_LEN or ACC, or set FRM_VALID; FRM_VALID falls only by
an ACK write with FRM_ACK or by RESET. -/
def Obligations.DecoderHasOnlyItsWriters : Prop :=
  ∀ (s t : State) (m : Move), s.cfg.Ok → TakesMove s m t →
    (m ≠ .feed → m ≠ .reset →
      t.decState = s.decState ∧ t.decIdx = s.decIdx ∧ t.frmLen = s.frmLen ∧ (t.frmValid = true → s.frmValid = true) ∧
        ∀ i, i < s.cfg.maxPkt → readByte t.mem (0x300 + i) = readByte s.mem (0x300 + i)) ∧
    (s.frmValid = true → t.frmValid = false →
      m = .reset ∨ ∃ v : Byte, m = .hostWrite 0x004#10 v ∧ v.getLsbD 0 = true)

/-- R47: the history is appended to and never read: a step adds the same events to any history and does the same
otherwise. -/
def Obligations.HistoryOnlyGrowsAndIsNeverRead : Prop :=
  ∀ (s : State) (h : List Event), ∃ t ext,
    step s = .next t ∧ t.hist = s.hist ++ ext ∧ step { s with hist := h } = .next { t with hist := h ++ ext }

/-- R114: in a quiescent state no step of PE or DE is enabled, and neither such a move nor the block left to itself does
anything (that a move that is not enabled changes nothing, and that the block runs on by itself, are the model's choices,
logs 2 and 3). -/
def Obligations.QuiescentStateHasNoEngineStep : Prop :=
  ∀ s : State, Quiescent s →
    (∀ m, isEngineMove m = true → enabled s m = false) ∧
    (∀ m ms, isEngineMove m = true → s.moves = m :: ms → step s = .next { s with moves := ms }) ∧
    (s.moves = [] → step s = .next s)
end

