-- ==== Sys2Proof/Laws/Memory.lean ====
section
/-! SUPPORT. The laws of the memory operations: canonical form, read after write, what a write leaves alone. -/

namespace Sys2Proof.Machine

/-! ### Reading -/

@[simp] theorem readByte_nil (a : Nat) : readByte [] a = unlistedByte := rfl

theorem readByte_cons (k : Nat) (v : Byte) (m : List Host.Cell) (a : Nat) :
    readByte ((k, v) :: m) a = if k = a then v else readByte m a := rfl

theorem wfFrom_cons (lo k : Nat) (v : Byte) (m : List Host.Cell) :
    Memory.wfFrom lo ((k, v) :: m) = true ↔ lo ≤ k ∧ v ≠ unlistedByte ∧ Memory.wfFrom (k + 1) m = true := by
  simp [Memory.wfFrom, and_assoc]

theorem wfFrom_mono {lo lo' : Nat} (h : lo' ≤ lo) : ∀ {m : List Host.Cell},
    Memory.wfFrom lo m = true → Memory.wfFrom lo' m = true
  | [], _ => rfl
  | (k, v) :: m, hm => by
    rw [wfFrom_cons] at hm ⊢
    exact ⟨h.trans hm.1, hm.2⟩

/-- Below the lower bound of a canonical memory every address reads as unlisted. -/
theorem readByte_below : ∀ {m : List Host.Cell} {lo a : Nat},
    Memory.wfFrom lo m = true → a < lo → readByte m a = unlistedByte
  | [], _, _, _, _ => rfl
  | (k, v) :: m, lo, a, hm, ha => by
    rw [wfFrom_cons] at hm
    rw [readByte_cons, if_neg (by omega)]
    exact readByte_below hm.2.2 (by omega)

/-- Two canonical memories that read the same everywhere are the same list. -/
theorem memory_ext : ∀ {m m' : List Host.Cell} {lo : Nat}, Memory.wfFrom lo m = true → Memory.wfFrom lo m' = true →
    (∀ a, readByte m a = readByte m' a) → m = m'
  | [], [], _, _, _, _ => rfl
  | [], (k, v) :: m', _, _, h', h => by
    rw [wfFrom_cons] at h'
    exact absurd (by simpa [readByte_cons] using (h k).symm) h'.2.1
  | (k, v) :: m, [], _, h', _, h => by
    rw [wfFrom_cons] at h'
    exact absurd (by simpa [readByte_cons] using h k) h'.2.1
  | (k, v) :: m, (k', v') :: m', lo, hm, hm', h => by
    rw [wfFrom_cons] at hm hm'
    have hk : k = k' := by
      rcases lt_trichotomy k k' with hlt | heq | hlt
      · have := h k
        rw [readByte_cons, if_pos rfl, readByte_cons, if_neg (by omega), readByte_below hm'.2.2 (by omega)] at this
        exact absurd this hm.2.1
      · exact heq
      · have := h k'
        rw [readByte_cons, if_neg (by omega), readByte_below hm.2.2 (by omega), readByte_cons, if_pos rfl] at this
        exact absurd this.symm hm'.2.1
    subst hk
    have hv : v = v' := by simpa [readByte_cons] using h k
    subst hv
    have ht : m = m' := memory_ext hm.2.2 hm'.2.2 fun a => by
      by_cases ha : k = a
      · rw [readByte_below hm.2.2 (by omega), readByte_below hm'.2.2 (by omega)]
      · simpa [readByte_cons, ha] using h a
    rw [ht]

/-! ### One byte -/

theorem readByte_writeByte_ne : ∀ (m : List Host.Cell) {a b : Nat} (v : Byte), b ≠ a →
    readByte (writeByte m a v) b = readByte m b
  | [], a, b, v, h => by
    unfold writeByte
    split
    · rfl
    · rw [readByte_cons, if_neg (Ne.symm h)]
  | (k, w) :: m, a, b, v, h => by
    have ih := readByte_writeByte_ne m v h
    unfold writeByte
    split_ifs <;> simp_all [readByte_cons] <;> (try (split_ifs <;> simp_all)) <;> omega

theorem readByte_writeByte_self : ∀ {m : List Host.Cell} {lo : Nat} (a : Nat) (v : Byte), Memory.wfFrom lo m = true →
    readByte (writeByte m a v) a = v
  | [], _, a, v, _ => by
    unfold writeByte
    split_ifs with h
    · simp [h]
    · simp [readByte_cons]
  | (k, w) :: m, lo, a, v, hm => by
    rw [wfFrom_cons] at hm
    have ih := readByte_writeByte_self a v hm.2.2
    unfold writeByte
    split_ifs with h1 h2 h3 h3
    · rw [readByte_cons, if_neg (by omega), ih]
    · rw [h3, ← h2]; exact readByte_below hm.2.2 (by omega)
    · simp [readByte_cons]
    · rw [readByte_cons, if_neg h2, readByte_below hm.2.2 (by omega), h3]
    · simp [readByte_cons]

/-- What one write can do to a read. -/
theorem readByte_writeByte {m : List Host.Cell} (hm : Memory.wf m = true) (a b : Nat) (v : Byte) :
    readByte (writeByte m a v) b = if b = a then v else readByte m b := by
  split_ifs with h
  · rw [h]; exact readByte_writeByte_self a v hm
  · exact readByte_writeByte_ne m v h

theorem wfFrom_writeByte : ∀ {m : List Host.Cell} {lo a : Nat} (v : Byte), Memory.wfFrom lo m = true → lo ≤ a →
    Memory.wfFrom lo (writeByte m a v) = true
  | [], lo, a, v, _, ha => by
    unfold writeByte
    split_ifs with h
    · rfl
    · simp [h, ha, Memory.wfFrom]
  | (k, w) :: m, lo, a, v, hm, ha => by
    rw [wfFrom_cons] at hm
    unfold writeByte
    split_ifs with h1 h2 h3 h3
    · rw [wfFrom_cons]; exact ⟨hm.1, hm.2.1, wfFrom_writeByte v hm.2.2 (by omega)⟩
    · exact wfFrom_mono (by omega) hm.2.2
    · rw [wfFrom_cons]; exact ⟨ha, h3, by rw [← h2]; exact hm.2.2⟩
    · rw [wfFrom_cons]; exact hm
    · rw [wfFrom_cons, wfFrom_cons]; exact ⟨ha, h3, by omega, hm.2⟩

/-- A write keeps the canonical form. -/
theorem wf_writeByte {m : List Host.Cell} (hm : Memory.wf m = true) (a : Nat) (v : Byte) :
    Memory.wf (writeByte m a v) = true := wfFrom_writeByte v hm (Nat.zero_le a)

/-- The cells after a write are old cells or the written one. -/
theorem mem_writeByte : ∀ {m : List Host.Cell} {a : Nat} {v : Byte} {c : Host.Cell},
    c ∈ writeByte m a v → c ∈ m ∨ c.1 = a
  | [], a, v, c, h => by
    unfold writeByte at h
    split_ifs at h
    · exact absurd h (by simp)
    · right; simp_all
  | (k, w) :: m, a, v, c, h => by
    have ih := @mem_writeByte m a v c
    unfold writeByte at h
    split_ifs at h <;> simp only [List.mem_cons] at h ⊢ <;> rcases h with h | h <;>
      first | (subst h; tauto) | tauto

/-! ### Sequences of bytes -/

theorem wf_writeBytes : ∀ {m : List Host.Cell} (a : Nat) (bs : List Byte), Memory.wf m = true →
    Memory.wf (writeBytes m a bs) = true
  | _, _, [], hm => hm
  | _, a, b :: bs, hm => wf_writeBytes (a + 1) bs (wf_writeByte hm a b)

theorem readByte_writeBytes_outside : ∀ (m : List Host.Cell) (a : Nat) (bs : List Byte) {b : Nat},
    b < a ∨ a + bs.length ≤ b → readByte (writeBytes m a bs) b = readByte m b
  | _, _, [], _, _ => rfl
  | m, a, x :: bs, b, h => by
    rw [List.length_cons] at h
    rw [writeBytes, readByte_writeBytes_outside _ _ bs (by omega), readByte_writeByte_ne m x (by omega)]

theorem readByte_writeBytes_inside : ∀ {m : List Host.Cell} (a : Nat) (bs : List Byte) {i : Nat}, Memory.wf m = true →
    (h : i < bs.length) → readByte (writeBytes m a bs) (a + i) = bs[i]
  | m, a, x :: bs, 0, hm, _ => by
    rw [writeBytes, readByte_writeBytes_outside _ _ bs (by omega)]
    exact readByte_writeByte_self _ _ hm
  | m, a, x :: bs, i + 1, hm, h => by
    have := readByte_writeBytes_inside (a + 1) bs (i := i) (wf_writeByte hm a x) (by simpa using h)
    rw [writeBytes, show a + (i + 1) = a + 1 + i by omega, this]
    simp

theorem mem_writeBytes : ∀ {m : List Host.Cell} {a : Nat} {bs : List Byte} {c : Host.Cell},
    c ∈ writeBytes m a bs → c ∈ m ∨ (a ≤ c.1 ∧ c.1 < a + bs.length)
  | _, _, [], _, h => Or.inl h
  | m, a, x :: bs, c, h => by
    rw [List.length_cons]
    rcases mem_writeBytes (bs := bs) h with h | h
    · rcases mem_writeByte h with h | h
      · exact Or.inl h
      · right; omega
    · right; omega

@[simp] theorem length_readBytes (m : List Host.Cell) (a n : Nat) : (readBytes m a n).length = n := by
  simp [readBytes]

@[simp] theorem getElem_readBytes (m : List Host.Cell) (a n i : Nat) (h : i < (readBytes m a n).length) :
    (readBytes m a n)[i] = readByte m (a + i) := by simp [readBytes]

/-- Equal reads give equal sequences. -/
theorem readBytes_congr {m m' : List Host.Cell} {a n : Nat} (h : ∀ i, i < n → readByte m (a + i) = readByte m' (a + i)) :
    readBytes m a n = readBytes m' a n := by
  refine List.ext_getElem (by simp) fun i h1 _ => ?_
  simpa using h i (by simpa using h1)

/-- A sequence that was written reads back. -/
theorem readBytes_writeBytes {m : List Host.Cell} (hm : Memory.wf m = true) (a : Nat) (bs : List Byte) :
    readBytes (writeBytes m a bs) a bs.length = bs := by
  refine List.ext_getElem (by simp) fun i h1 h2 => ?_
  rw [getElem_readBytes, readByte_writeBytes_inside a bs hm h2]

/-! ### Clearing -/

theorem clearBytes_cons (k : Nat) (v : Byte) (m : List Host.Cell) (a n : Nat) :
    clearBytes ((k, v) :: m) a n = if a ≤ k ∧ k < a + n then clearBytes m a n else (k, v) :: clearBytes m a n := by
  unfold clearBytes
  by_cases h : a ≤ k ∧ k < a + n
  · rw [List.filter_cons, if_neg (by simp [h]), if_pos h]
  · rw [List.filter_cons, if_pos (by simp only [h, decide_false, Bool.not_false]), if_neg h]

/-- What clearing does to a read. -/
theorem readByte_clearBytes : ∀ (m : List Host.Cell) (a n b : Nat),
    readByte (clearBytes m a n) b = if a ≤ b ∧ b < a + n then unlistedByte else readByte m b
  | [], a, n, b => by simp [clearBytes]
  | (k, v) :: m, a, n, b => by
    have ih := readByte_clearBytes m a n b
    rw [clearBytes_cons]
    by_cases h : a ≤ k ∧ k < a + n
    · rw [if_pos h, ih, readByte_cons]
      by_cases hb : a ≤ b ∧ b < a + n
      · simp [hb]
      · rw [if_neg hb, if_neg hb, if_neg (by rintro rfl; exact hb h)]
    · rw [if_neg h, readByte_cons, ih, readByte_cons]
      by_cases hk : k = b
      · subst hk; simp [h]
      · simp [hk]

theorem wfFrom_clearBytes : ∀ {m : List Host.Cell} {lo : Nat} (a n : Nat), Memory.wfFrom lo m = true →
    Memory.wfFrom lo (clearBytes m a n) = true
  | [], _, _, _, _ => rfl
  | (k, v) :: m, lo, a, n, hm => by
    rw [wfFrom_cons] at hm
    have ih := wfFrom_clearBytes a n hm.2.2
    rw [clearBytes_cons]
    split_ifs
    · exact wfFrom_mono (by omega) ih
    · rw [wfFrom_cons]; exact ⟨hm.1, hm.2.1, ih⟩

theorem wf_clearBytes {m : List Host.Cell} (hm : Memory.wf m = true) (a n : Nat) :
    Memory.wf (clearBytes m a n) = true := wfFrom_clearBytes a n hm

theorem mem_clearBytes {m : List Host.Cell} {a n : Nat} {c : Host.Cell} (h : c ∈ clearBytes m a n) : c ∈ m :=
  (List.mem_filter.1 h).1

/-- Writes at different addresses commute. -/
theorem writeByte_comm {m : List Host.Cell} (hm : Memory.wf m = true) {a b : Nat} (h : a ≠ b) (v w : Byte) :
    writeByte (writeByte m a v) b w = writeByte (writeByte m b w) a v := by
  refine memory_ext (wf_writeByte (wf_writeByte hm a v) b w) (wf_writeByte (wf_writeByte hm b w) a v) fun c => ?_
  rw [readByte_writeByte (wf_writeByte hm a v), readByte_writeByte hm, readByte_writeByte (wf_writeByte hm b w),
    readByte_writeByte hm]
  split_ifs <;> simp_all

end Sys2Proof.Machine
end

