-- ==== Sys2Proof/Laws/State.lean ====
section
/-! SUPPORT. One lemma per field per update of State, so that no proof unfolds a record update. -/

namespace Sys2Proof.Machine

/-! ### State.emit -/

@[simp] theorem State.emit_cfg (s : State) (e : Event) : (s.emit e).cfg = s.cfg := rfl
@[simp] theorem State.emit_argLen (s : State) (e : Event) : (s.emit e).argLen = s.argLen := rfl
@[simp] theorem State.emit_argDest (s : State) (e : Event) : (s.emit e).argDest = s.argDest := rfl
@[simp] theorem State.emit_busy (s : State) (e : Event) : (s.emit e).busy = s.busy := rfl
@[simp] theorem State.emit_err (s : State) (e : Event) : (s.emit e).err = s.err := rfl
@[simp] theorem State.emit_ie (s : State) (e : Event) : (s.emit e).ie = s.ie := rfl
@[simp] theorem State.emit_ifg (s : State) (e : Event) : (s.emit e).ifg = s.ifg := rfl
@[simp] theorem State.emit_frmValid (s : State) (e : Event) : (s.emit e).frmValid = s.frmValid := rfl
@[simp] theorem State.emit_pktValid (s : State) (e : Event) : (s.emit e).pktValid = s.pktValid := rfl
@[simp] theorem State.emit_decState (s : State) (e : Event) : (s.emit e).decState = s.decState := rfl
@[simp] theorem State.emit_decIdx (s : State) (e : Event) : (s.emit e).decIdx = s.decIdx := rfl
@[simp] theorem State.emit_frmLen (s : State) (e : Event) : (s.emit e).frmLen = s.frmLen := rfl
@[simp] theorem State.emit_rxResult (s : State) (e : Event) : (s.emit e).rxResult = s.rxResult := rfl
@[simp] theorem State.emit_rxLen (s : State) (e : Event) : (s.emit e).rxLen = s.rxLen := rfl
@[simp] theorem State.emit_rxRssi (s : State) (e : Event) : (s.emit e).rxRssi = s.rxRssi := rfl
@[simp] theorem State.emit_rxLqiCrc (s : State) (e : Event) : (s.emit e).rxLqiCrc = s.rxLqiCrc := rfl
@[simp] theorem State.emit_mem (s : State) (e : Event) : (s.emit e).mem = s.mem := rfl
@[simp] theorem State.emit_peOp (s : State) (e : Event) : (s.emit e).peOp = s.peOp := rfl
@[simp] theorem State.emit_pePhase (s : State) (e : Event) : (s.emit e).pePhase = s.pePhase := rfl
@[simp] theorem State.emit_peLen (s : State) (e : Event) : (s.emit e).peLen = s.peLen := rfl
@[simp] theorem State.emit_peDest (s : State) (e : Event) : (s.emit e).peDest = s.peDest := rfl
@[simp] theorem State.emit_peI (s : State) (e : Event) : (s.emit e).peI = s.peI := rfl
@[simp] theorem State.emit_peL (s : State) (e : Event) : (s.emit e).peL = s.peL := rfl
@[simp] theorem State.emit_peWait (s : State) (e : Event) : (s.emit e).peWait = s.peWait := rfl
@[simp] theorem State.emit_cmdPend (s : State) (e : Event) : (s.emit e).cmdPend = s.cmdPend := rfl
@[simp] theorem State.emit_pktSig (s : State) (e : Event) : (s.emit e).pktSig = s.pktSig := rfl
@[simp] theorem State.emit_srx (s : State) (e : Event) : (s.emit e).srx = s.srx := rfl
@[simp] theorem State.emit_hist (s : State) (e : Event) : (s.emit e).hist = s.hist ++ [e] := rfl
@[simp] theorem State.emit_readData (s : State) (e : Event) : (s.emit e).readData = s.readData := rfl
@[simp] theorem State.emit_moves (s : State) (e : Event) : (s.emit e).moves = s.moves := rfl
@[simp] theorem State.emit_turn (s : State) (e : Event) : (s.emit e).turn = s.turn := rfl

/-! ### State.raise -/

@[simp] theorem State.raise_cfg (s : State) (c : ErrCode) : (s.raise c).cfg = s.cfg := rfl
@[simp] theorem State.raise_argLen (s : State) (c : ErrCode) : (s.raise c).argLen = s.argLen := rfl
@[simp] theorem State.raise_argDest (s : State) (c : ErrCode) : (s.raise c).argDest = s.argDest := rfl
@[simp] theorem State.raise_busy (s : State) (c : ErrCode) : (s.raise c).busy = s.busy := rfl
@[simp] theorem State.raise_err (s : State) (c : ErrCode) : (s.raise c).err = c := rfl
@[simp] theorem State.raise_ie (s : State) (c : ErrCode) : (s.raise c).ie = s.ie := rfl
@[simp] theorem State.raise_ifg (s : State) (c : ErrCode) : (s.raise c).ifg = s.ifg := rfl
@[simp] theorem State.raise_frmValid (s : State) (c : ErrCode) : (s.raise c).frmValid = s.frmValid := rfl
@[simp] theorem State.raise_pktValid (s : State) (c : ErrCode) : (s.raise c).pktValid = s.pktValid := rfl
@[simp] theorem State.raise_decState (s : State) (c : ErrCode) : (s.raise c).decState = s.decState := rfl
@[simp] theorem State.raise_decIdx (s : State) (c : ErrCode) : (s.raise c).decIdx = s.decIdx := rfl
@[simp] theorem State.raise_frmLen (s : State) (c : ErrCode) : (s.raise c).frmLen = s.frmLen := rfl
@[simp] theorem State.raise_rxResult (s : State) (c : ErrCode) : (s.raise c).rxResult = s.rxResult := rfl
@[simp] theorem State.raise_rxLen (s : State) (c : ErrCode) : (s.raise c).rxLen = s.rxLen := rfl
@[simp] theorem State.raise_rxRssi (s : State) (c : ErrCode) : (s.raise c).rxRssi = s.rxRssi := rfl
@[simp] theorem State.raise_rxLqiCrc (s : State) (c : ErrCode) : (s.raise c).rxLqiCrc = s.rxLqiCrc := rfl
@[simp] theorem State.raise_mem (s : State) (c : ErrCode) : (s.raise c).mem = s.mem := rfl
@[simp] theorem State.raise_peOp (s : State) (c : ErrCode) : (s.raise c).peOp = s.peOp := rfl
@[simp] theorem State.raise_pePhase (s : State) (c : ErrCode) : (s.raise c).pePhase = s.pePhase := rfl
@[simp] theorem State.raise_peLen (s : State) (c : ErrCode) : (s.raise c).peLen = s.peLen := rfl
@[simp] theorem State.raise_peDest (s : State) (c : ErrCode) : (s.raise c).peDest = s.peDest := rfl
@[simp] theorem State.raise_peI (s : State) (c : ErrCode) : (s.raise c).peI = s.peI := rfl
@[simp] theorem State.raise_peL (s : State) (c : ErrCode) : (s.raise c).peL = s.peL := rfl
@[simp] theorem State.raise_peWait (s : State) (c : ErrCode) : (s.raise c).peWait = s.peWait := rfl
@[simp] theorem State.raise_cmdPend (s : State) (c : ErrCode) : (s.raise c).cmdPend = s.cmdPend := rfl
@[simp] theorem State.raise_pktSig (s : State) (c : ErrCode) : (s.raise c).pktSig = s.pktSig := rfl
@[simp] theorem State.raise_srx (s : State) (c : ErrCode) : (s.raise c).srx = s.srx := rfl
@[simp] theorem State.raise_hist (s : State) (c : ErrCode) : (s.raise c).hist = s.hist := rfl
@[simp] theorem State.raise_readData (s : State) (c : ErrCode) : (s.raise c).readData = s.readData := rfl
@[simp] theorem State.raise_moves (s : State) (c : ErrCode) : (s.raise c).moves = s.moves := rfl
@[simp] theorem State.raise_turn (s : State) (c : ErrCode) : (s.raise c).turn = s.turn := rfl

/-! ### State.toPhase -/

@[simp] theorem State.toPhase_cfg (s : State) (p : Phase) : (s.toPhase p).cfg = s.cfg := rfl
@[simp] theorem State.toPhase_argLen (s : State) (p : Phase) : (s.toPhase p).argLen = s.argLen := rfl
@[simp] theorem State.toPhase_argDest (s : State) (p : Phase) : (s.toPhase p).argDest = s.argDest := rfl
@[simp] theorem State.toPhase_busy (s : State) (p : Phase) : (s.toPhase p).busy = s.busy := rfl
@[simp] theorem State.toPhase_err (s : State) (p : Phase) : (s.toPhase p).err = s.err := rfl
@[simp] theorem State.toPhase_ie (s : State) (p : Phase) : (s.toPhase p).ie = s.ie := rfl
@[simp] theorem State.toPhase_ifg (s : State) (p : Phase) : (s.toPhase p).ifg = s.ifg := rfl
@[simp] theorem State.toPhase_frmValid (s : State) (p : Phase) : (s.toPhase p).frmValid = s.frmValid := rfl
@[simp] theorem State.toPhase_pktValid (s : State) (p : Phase) : (s.toPhase p).pktValid = s.pktValid := rfl
@[simp] theorem State.toPhase_decState (s : State) (p : Phase) : (s.toPhase p).decState = s.decState := rfl
@[simp] theorem State.toPhase_decIdx (s : State) (p : Phase) : (s.toPhase p).decIdx = s.decIdx := rfl
@[simp] theorem State.toPhase_frmLen (s : State) (p : Phase) : (s.toPhase p).frmLen = s.frmLen := rfl
@[simp] theorem State.toPhase_rxResult (s : State) (p : Phase) : (s.toPhase p).rxResult = s.rxResult := rfl
@[simp] theorem State.toPhase_rxLen (s : State) (p : Phase) : (s.toPhase p).rxLen = s.rxLen := rfl
@[simp] theorem State.toPhase_rxRssi (s : State) (p : Phase) : (s.toPhase p).rxRssi = s.rxRssi := rfl
@[simp] theorem State.toPhase_rxLqiCrc (s : State) (p : Phase) : (s.toPhase p).rxLqiCrc = s.rxLqiCrc := rfl
@[simp] theorem State.toPhase_mem (s : State) (p : Phase) : (s.toPhase p).mem = s.mem := rfl
@[simp] theorem State.toPhase_peOp (s : State) (p : Phase) : (s.toPhase p).peOp = s.peOp := rfl
@[simp] theorem State.toPhase_pePhase (s : State) (p : Phase) : (s.toPhase p).pePhase = p := rfl
@[simp] theorem State.toPhase_peLen (s : State) (p : Phase) : (s.toPhase p).peLen = s.peLen := rfl
@[simp] theorem State.toPhase_peDest (s : State) (p : Phase) : (s.toPhase p).peDest = s.peDest := rfl
@[simp] theorem State.toPhase_peI (s : State) (p : Phase) : (s.toPhase p).peI = s.peI := rfl
@[simp] theorem State.toPhase_peL (s : State) (p : Phase) : (s.toPhase p).peL = s.peL := rfl
@[simp] theorem State.toPhase_peWait (s : State) (p : Phase) : (s.toPhase p).peWait = s.peWait := rfl
@[simp] theorem State.toPhase_cmdPend (s : State) (p : Phase) : (s.toPhase p).cmdPend = s.cmdPend := rfl
@[simp] theorem State.toPhase_pktSig (s : State) (p : Phase) : (s.toPhase p).pktSig = s.pktSig := rfl
@[simp] theorem State.toPhase_srx (s : State) (p : Phase) : (s.toPhase p).srx = s.srx := rfl
@[simp] theorem State.toPhase_hist (s : State) (p : Phase) : (s.toPhase p).hist = s.hist := rfl
@[simp] theorem State.toPhase_readData (s : State) (p : Phase) : (s.toPhase p).readData = s.readData := rfl
@[simp] theorem State.toPhase_moves (s : State) (p : Phase) : (s.toPhase p).moves = s.moves := rfl
@[simp] theorem State.toPhase_turn (s : State) (p : Phase) : (s.toPhase p).turn = s.turn := rfl

/-! ### State.finishCommand -/

@[simp] theorem State.finishCommand_cfg (s : State) : s.finishCommand.cfg = s.cfg := rfl
@[simp] theorem State.finishCommand_argLen (s : State) : s.finishCommand.argLen = s.argLen := rfl
@[simp] theorem State.finishCommand_argDest (s : State) : s.finishCommand.argDest = s.argDest := rfl
@[simp] theorem State.finishCommand_busy (s : State) : s.finishCommand.busy = false := rfl
@[simp] theorem State.finishCommand_err (s : State) : s.finishCommand.err = s.err := rfl
@[simp] theorem State.finishCommand_ie (s : State) : s.finishCommand.ie = s.ie := rfl
@[simp] theorem State.finishCommand_ifg (s : State) : s.finishCommand.ifg = s.ifg := rfl
@[simp] theorem State.finishCommand_frmValid (s : State) : s.finishCommand.frmValid = s.frmValid := rfl
@[simp] theorem State.finishCommand_pktValid (s : State) : s.finishCommand.pktValid = s.pktValid := rfl
@[simp] theorem State.finishCommand_decState (s : State) : s.finishCommand.decState = s.decState := rfl
@[simp] theorem State.finishCommand_decIdx (s : State) : s.finishCommand.decIdx = s.decIdx := rfl
@[simp] theorem State.finishCommand_frmLen (s : State) : s.finishCommand.frmLen = s.frmLen := rfl
@[simp] theorem State.finishCommand_rxResult (s : State) : s.finishCommand.rxResult = s.rxResult := rfl
@[simp] theorem State.finishCommand_rxLen (s : State) : s.finishCommand.rxLen = s.rxLen := rfl
@[simp] theorem State.finishCommand_rxRssi (s : State) : s.finishCommand.rxRssi = s.rxRssi := rfl
@[simp] theorem State.finishCommand_rxLqiCrc (s : State) : s.finishCommand.rxLqiCrc = s.rxLqiCrc := rfl
@[simp] theorem State.finishCommand_mem (s : State) : s.finishCommand.mem = s.mem := rfl
@[simp] theorem State.finishCommand_peOp (s : State) : s.finishCommand.peOp = .none := rfl
@[simp] theorem State.finishCommand_pePhase (s : State) : s.finishCommand.pePhase = s.pePhase := rfl
@[simp] theorem State.finishCommand_peLen (s : State) : s.finishCommand.peLen = s.peLen := rfl
@[simp] theorem State.finishCommand_peDest (s : State) : s.finishCommand.peDest = s.peDest := rfl
@[simp] theorem State.finishCommand_peI (s : State) : s.finishCommand.peI = s.peI := rfl
@[simp] theorem State.finishCommand_peL (s : State) : s.finishCommand.peL = s.peL := rfl
@[simp] theorem State.finishCommand_peWait (s : State) : s.finishCommand.peWait = s.peWait := rfl
@[simp] theorem State.finishCommand_cmdPend (s : State) : s.finishCommand.cmdPend = s.cmdPend := rfl
@[simp] theorem State.finishCommand_pktSig (s : State) : s.finishCommand.pktSig = s.pktSig := rfl
@[simp] theorem State.finishCommand_srx (s : State) : s.finishCommand.srx = s.srx := rfl
@[simp] theorem State.finishCommand_hist (s : State) : s.finishCommand.hist = s.hist := rfl
@[simp] theorem State.finishCommand_readData (s : State) : s.finishCommand.readData = s.readData := rfl
@[simp] theorem State.finishCommand_moves (s : State) : s.finishCommand.moves = s.moves := rfl
@[simp] theorem State.finishCommand_turn (s : State) : s.finishCommand.turn = s.turn := rfl

/-! ### State.finishTransmit -/

@[simp] theorem State.finishTransmit_cfg (s : State) : s.finishTransmit.cfg = s.cfg := rfl
@[simp] theorem State.finishTransmit_argLen (s : State) : s.finishTransmit.argLen = s.argLen := rfl
@[simp] theorem State.finishTransmit_argDest (s : State) : s.finishTransmit.argDest = s.argDest := rfl
@[simp] theorem State.finishTransmit_busy (s : State) : s.finishTransmit.busy = false := rfl
@[simp] theorem State.finishTransmit_err (s : State) : s.finishTransmit.err = s.err := rfl
@[simp] theorem State.finishTransmit_ie (s : State) : s.finishTransmit.ie = true := rfl
@[simp] theorem State.finishTransmit_ifg (s : State) : s.finishTransmit.ifg = false := rfl
@[simp] theorem State.finishTransmit_frmValid (s : State) : s.finishTransmit.frmValid = s.frmValid := rfl
@[simp] theorem State.finishTransmit_pktValid (s : State) : s.finishTransmit.pktValid = s.pktValid := rfl
@[simp] theorem State.finishTransmit_decState (s : State) : s.finishTransmit.decState = s.decState := rfl
@[simp] theorem State.finishTransmit_decIdx (s : State) : s.finishTransmit.decIdx = s.decIdx := rfl
@[simp] theorem State.finishTransmit_frmLen (s : State) : s.finishTransmit.frmLen = s.frmLen := rfl
@[simp] theorem State.finishTransmit_rxResult (s : State) : s.finishTransmit.rxResult = s.rxResult := rfl
@[simp] theorem State.finishTransmit_rxLen (s : State) : s.finishTransmit.rxLen = s.rxLen := rfl
@[simp] theorem State.finishTransmit_rxRssi (s : State) : s.finishTransmit.rxRssi = s.rxRssi := rfl
@[simp] theorem State.finishTransmit_rxLqiCrc (s : State) : s.finishTransmit.rxLqiCrc = s.rxLqiCrc := rfl
@[simp] theorem State.finishTransmit_mem (s : State) : s.finishTransmit.mem = s.mem := rfl
@[simp] theorem State.finishTransmit_peOp (s : State) : s.finishTransmit.peOp = .none := rfl
@[simp] theorem State.finishTransmit_pePhase (s : State) : s.finishTransmit.pePhase = s.pePhase := rfl
@[simp] theorem State.finishTransmit_peLen (s : State) : s.finishTransmit.peLen = s.peLen := rfl
@[simp] theorem State.finishTransmit_peDest (s : State) : s.finishTransmit.peDest = s.peDest := rfl
@[simp] theorem State.finishTransmit_peI (s : State) : s.finishTransmit.peI = s.peI := rfl
@[simp] theorem State.finishTransmit_peL (s : State) : s.finishTransmit.peL = s.peL := rfl
@[simp] theorem State.finishTransmit_peWait (s : State) : s.finishTransmit.peWait = s.peWait := rfl
@[simp] theorem State.finishTransmit_cmdPend (s : State) : s.finishTransmit.cmdPend = s.cmdPend := rfl
@[simp] theorem State.finishTransmit_pktSig (s : State) : s.finishTransmit.pktSig = s.pktSig := rfl
@[simp] theorem State.finishTransmit_srx (s : State) : s.finishTransmit.srx = s.srx := rfl
@[simp] theorem State.finishTransmit_hist (s : State) : s.finishTransmit.hist = s.hist := rfl
@[simp] theorem State.finishTransmit_readData (s : State) : s.finishTransmit.readData = s.readData := rfl
@[simp] theorem State.finishTransmit_moves (s : State) : s.finishTransmit.moves = s.moves := rfl
@[simp] theorem State.finishTransmit_turn (s : State) : s.finishTransmit.turn = s.turn := rfl

/-! ### State.dequeue -/

@[simp] theorem State.dequeue_cfg (s : State) : s.dequeue.cfg = s.cfg := rfl
@[simp] theorem State.dequeue_argLen (s : State) : s.dequeue.argLen = s.argLen := rfl
@[simp] theorem State.dequeue_argDest (s : State) : s.dequeue.argDest = s.argDest := rfl
@[simp] theorem State.dequeue_busy (s : State) : s.dequeue.busy = s.busy := rfl
@[simp] theorem State.dequeue_err (s : State) : s.dequeue.err = s.err := rfl
@[simp] theorem State.dequeue_ie (s : State) : s.dequeue.ie = s.ie := rfl
@[simp] theorem State.dequeue_ifg (s : State) : s.dequeue.ifg = s.ifg := rfl
@[simp] theorem State.dequeue_frmValid (s : State) : s.dequeue.frmValid = s.frmValid := rfl
@[simp] theorem State.dequeue_pktValid (s : State) : s.dequeue.pktValid = s.pktValid := rfl
@[simp] theorem State.dequeue_decState (s : State) : s.dequeue.decState = s.decState := rfl
@[simp] theorem State.dequeue_decIdx (s : State) : s.dequeue.decIdx = s.decIdx := rfl
@[simp] theorem State.dequeue_frmLen (s : State) : s.dequeue.frmLen = s.frmLen := rfl
@[simp] theorem State.dequeue_rxResult (s : State) : s.dequeue.rxResult = s.rxResult := rfl
@[simp] theorem State.dequeue_rxLen (s : State) : s.dequeue.rxLen = s.rxLen := rfl
@[simp] theorem State.dequeue_rxRssi (s : State) : s.dequeue.rxRssi = s.rxRssi := rfl
@[simp] theorem State.dequeue_rxLqiCrc (s : State) : s.dequeue.rxLqiCrc = s.rxLqiCrc := rfl
@[simp] theorem State.dequeue_mem (s : State) : s.dequeue.mem = s.mem := rfl
@[simp] theorem State.dequeue_peOp (s : State) : s.dequeue.peOp = s.peOp := rfl
@[simp] theorem State.dequeue_pePhase (s : State) : s.dequeue.pePhase = s.pePhase := rfl
@[simp] theorem State.dequeue_peLen (s : State) : s.dequeue.peLen = s.peLen := rfl
@[simp] theorem State.dequeue_peDest (s : State) : s.dequeue.peDest = s.peDest := rfl
@[simp] theorem State.dequeue_peI (s : State) : s.dequeue.peI = s.peI := rfl
@[simp] theorem State.dequeue_peL (s : State) : s.dequeue.peL = s.peL := rfl
@[simp] theorem State.dequeue_peWait (s : State) : s.dequeue.peWait = s.peWait := rfl
@[simp] theorem State.dequeue_cmdPend (s : State) : s.dequeue.cmdPend = s.cmdPend := rfl
@[simp] theorem State.dequeue_pktSig (s : State) : s.dequeue.pktSig = s.pktSig := rfl
@[simp] theorem State.dequeue_srx (s : State) : s.dequeue.srx = s.srx := rfl
@[simp] theorem State.dequeue_hist (s : State) : s.dequeue.hist = s.hist := rfl
@[simp] theorem State.dequeue_readData (s : State) : s.dequeue.readData = s.readData := rfl
@[simp] theorem State.dequeue_moves (s : State) : s.dequeue.moves = s.moves.tail := rfl
@[simp] theorem State.dequeue_turn (s : State) : s.dequeue.turn = s.turn := rfl

/-! ### State.enterRx -/

@[simp] theorem State.enterRx_cfg (s : State) : s.enterRx.cfg = s.cfg := rfl
@[simp] theorem State.enterRx_argLen (s : State) : s.enterRx.argLen = s.argLen := rfl
@[simp] theorem State.enterRx_argDest (s : State) : s.enterRx.argDest = s.argDest := rfl
@[simp] theorem State.enterRx_busy (s : State) : s.enterRx.busy = s.busy := rfl
@[simp] theorem State.enterRx_err (s : State) : s.enterRx.err = s.err := rfl
@[simp] theorem State.enterRx_ie (s : State) : s.enterRx.ie = s.ie := rfl
@[simp] theorem State.enterRx_ifg (s : State) : s.enterRx.ifg = s.ifg := rfl
@[simp] theorem State.enterRx_frmValid (s : State) : s.enterRx.frmValid = s.frmValid := rfl
@[simp] theorem State.enterRx_pktValid (s : State) : s.enterRx.pktValid = s.pktValid := rfl
@[simp] theorem State.enterRx_decState (s : State) : s.enterRx.decState = s.decState := rfl
@[simp] theorem State.enterRx_decIdx (s : State) : s.enterRx.decIdx = s.decIdx := rfl
@[simp] theorem State.enterRx_frmLen (s : State) : s.enterRx.frmLen = s.frmLen := rfl
@[simp] theorem State.enterRx_rxResult (s : State) : s.enterRx.rxResult = s.rxResult := rfl
@[simp] theorem State.enterRx_rxLen (s : State) : s.enterRx.rxLen = s.rxLen := rfl
@[simp] theorem State.enterRx_rxRssi (s : State) : s.enterRx.rxRssi = s.rxRssi := rfl
@[simp] theorem State.enterRx_rxLqiCrc (s : State) : s.enterRx.rxLqiCrc = s.rxLqiCrc := rfl
@[simp] theorem State.enterRx_mem (s : State) : s.enterRx.mem = s.mem := rfl
@[simp] theorem State.enterRx_peOp (s : State) : s.enterRx.peOp = .rxd := rfl
@[simp] theorem State.enterRx_pePhase (s : State) : s.enterRx.pePhase = .x1 := rfl
@[simp] theorem State.enterRx_peLen (s : State) : s.enterRx.peLen = s.peLen := rfl
@[simp] theorem State.enterRx_peDest (s : State) : s.enterRx.peDest = s.peDest := rfl
@[simp] theorem State.enterRx_peI (s : State) : s.enterRx.peI = s.peI := rfl
@[simp] theorem State.enterRx_peL (s : State) : s.enterRx.peL = s.peL := rfl
@[simp] theorem State.enterRx_peWait (s : State) : s.enterRx.peWait = s.peWait := rfl
@[simp] theorem State.enterRx_cmdPend (s : State) : s.enterRx.cmdPend = s.cmdPend := rfl
@[simp] theorem State.enterRx_pktSig (s : State) : s.enterRx.pktSig = s.pktSig := rfl
@[simp] theorem State.enterRx_srx (s : State) : s.enterRx.srx = s.srx := rfl
@[simp] theorem State.enterRx_hist (s : State) : s.enterRx.hist = s.hist := rfl
@[simp] theorem State.enterRx_readData (s : State) : s.enterRx.readData = s.readData := rfl
@[simp] theorem State.enterRx_moves (s : State) : s.enterRx.moves = s.moves := rfl
@[simp] theorem State.enterRx_turn (s : State) : s.enterRx.turn = s.turn := rfl

/-! ### State.leaveRx -/

@[simp] theorem State.leaveRx_cfg (s : State) : s.leaveRx.cfg = s.cfg := rfl
@[simp] theorem State.leaveRx_argLen (s : State) : s.leaveRx.argLen = s.argLen := rfl
@[simp] theorem State.leaveRx_argDest (s : State) : s.leaveRx.argDest = s.argDest := rfl
@[simp] theorem State.leaveRx_busy (s : State) : s.leaveRx.busy = s.busy := rfl
@[simp] theorem State.leaveRx_err (s : State) : s.leaveRx.err = s.err := rfl
@[simp] theorem State.leaveRx_ie (s : State) : s.leaveRx.ie = s.ie := rfl
@[simp] theorem State.leaveRx_ifg (s : State) : s.leaveRx.ifg = false := rfl
@[simp] theorem State.leaveRx_frmValid (s : State) : s.leaveRx.frmValid = s.frmValid := rfl
@[simp] theorem State.leaveRx_pktValid (s : State) : s.leaveRx.pktValid = s.pktValid := rfl
@[simp] theorem State.leaveRx_decState (s : State) : s.leaveRx.decState = s.decState := rfl
@[simp] theorem State.leaveRx_decIdx (s : State) : s.leaveRx.decIdx = s.decIdx := rfl
@[simp] theorem State.leaveRx_frmLen (s : State) : s.leaveRx.frmLen = s.frmLen := rfl
@[simp] theorem State.leaveRx_rxResult (s : State) : s.leaveRx.rxResult = s.rxResult := rfl
@[simp] theorem State.leaveRx_rxLen (s : State) : s.leaveRx.rxLen = s.rxLen := rfl
@[simp] theorem State.leaveRx_rxRssi (s : State) : s.leaveRx.rxRssi = s.rxRssi := rfl
@[simp] theorem State.leaveRx_rxLqiCrc (s : State) : s.leaveRx.rxLqiCrc = s.rxLqiCrc := rfl
@[simp] theorem State.leaveRx_mem (s : State) : s.leaveRx.mem = clearBytes s.mem rxBase s.cfg.maxPkt := rfl
@[simp] theorem State.leaveRx_peOp (s : State) : s.leaveRx.peOp = .none := rfl
@[simp] theorem State.leaveRx_pePhase (s : State) : s.leaveRx.pePhase = s.pePhase := rfl
@[simp] theorem State.leaveRx_peLen (s : State) : s.leaveRx.peLen = s.peLen := rfl
@[simp] theorem State.leaveRx_peDest (s : State) : s.leaveRx.peDest = s.peDest := rfl
@[simp] theorem State.leaveRx_peI (s : State) : s.leaveRx.peI = s.peI := rfl
@[simp] theorem State.leaveRx_peL (s : State) : s.leaveRx.peL = s.peL := rfl
@[simp] theorem State.leaveRx_peWait (s : State) : s.leaveRx.peWait = s.peWait := rfl
@[simp] theorem State.leaveRx_cmdPend (s : State) : s.leaveRx.cmdPend = s.cmdPend := rfl
@[simp] theorem State.leaveRx_pktSig (s : State) : s.leaveRx.pktSig = s.pktSig := rfl
@[simp] theorem State.leaveRx_srx (s : State) : s.leaveRx.srx = s.srx := rfl
@[simp] theorem State.leaveRx_hist (s : State) : s.leaveRx.hist = s.hist := rfl
@[simp] theorem State.leaveRx_readData (s : State) : s.leaveRx.readData = s.readData := rfl
@[simp] theorem State.leaveRx_moves (s : State) : s.leaveRx.moves = s.moves := rfl
@[simp] theorem State.leaveRx_turn (s : State) : s.leaveRx.turn = s.turn := rfl

/-! ### State.resetBlock: block state at its reset value, the rest kept -/

@[simp] theorem State.resetBlock_cfg (s : State) : s.resetBlock.cfg = s.cfg := rfl
@[simp] theorem State.resetBlock_argLen (s : State) : s.resetBlock.argLen = State.reset.argLen := rfl
@[simp] theorem State.resetBlock_argDest (s : State) : s.resetBlock.argDest = State.reset.argDest := rfl
@[simp] theorem State.resetBlock_busy (s : State) : s.resetBlock.busy = State.reset.busy := rfl
@[simp] theorem State.resetBlock_err (s : State) : s.resetBlock.err = State.reset.err := rfl
@[simp] theorem State.resetBlock_ie (s : State) : s.resetBlock.ie = State.reset.ie := rfl
@[simp] theorem State.resetBlock_ifg (s : State) : s.resetBlock.ifg = State.reset.ifg := rfl
@[simp] theorem State.resetBlock_frmValid (s : State) : s.resetBlock.frmValid = State.reset.frmValid := rfl
@[simp] theorem State.resetBlock_pktValid (s : State) : s.resetBlock.pktValid = State.reset.pktValid := rfl
@[simp] theorem State.resetBlock_decState (s : State) : s.resetBlock.decState = State.reset.decState := rfl
@[simp] theorem State.resetBlock_decIdx (s : State) : s.resetBlock.decIdx = State.reset.decIdx := rfl
@[simp] theorem State.resetBlock_frmLen (s : State) : s.resetBlock.frmLen = State.reset.frmLen := rfl
@[simp] theorem State.resetBlock_rxResult (s : State) : s.resetBlock.rxResult = State.reset.rxResult := rfl
@[simp] theorem State.resetBlock_rxLen (s : State) : s.resetBlock.rxLen = State.reset.rxLen := rfl
@[simp] theorem State.resetBlock_rxRssi (s : State) : s.resetBlock.rxRssi = State.reset.rxRssi := rfl
@[simp] theorem State.resetBlock_rxLqiCrc (s : State) : s.resetBlock.rxLqiCrc = State.reset.rxLqiCrc := rfl
@[simp] theorem State.resetBlock_mem (s : State) : s.resetBlock.mem = State.reset.mem := rfl
@[simp] theorem State.resetBlock_peOp (s : State) : s.resetBlock.peOp = State.reset.peOp := rfl
@[simp] theorem State.resetBlock_pePhase (s : State) : s.resetBlock.pePhase = State.reset.pePhase := rfl
@[simp] theorem State.resetBlock_peLen (s : State) : s.resetBlock.peLen = State.reset.peLen := rfl
@[simp] theorem State.resetBlock_peDest (s : State) : s.resetBlock.peDest = State.reset.peDest := rfl
@[simp] theorem State.resetBlock_peI (s : State) : s.resetBlock.peI = State.reset.peI := rfl
@[simp] theorem State.resetBlock_peL (s : State) : s.resetBlock.peL = State.reset.peL := rfl
@[simp] theorem State.resetBlock_peWait (s : State) : s.resetBlock.peWait = State.reset.peWait := rfl
@[simp] theorem State.resetBlock_cmdPend (s : State) : s.resetBlock.cmdPend = State.reset.cmdPend := rfl
@[simp] theorem State.resetBlock_pktSig (s : State) : s.resetBlock.pktSig = s.pktSig := rfl
@[simp] theorem State.resetBlock_srx (s : State) : s.resetBlock.srx = s.srx := rfl
@[simp] theorem State.resetBlock_hist (s : State) : s.resetBlock.hist = s.hist := rfl
@[simp] theorem State.resetBlock_readData (s : State) : s.resetBlock.readData = s.readData := rfl
@[simp] theorem State.resetBlock_moves (s : State) : s.resetBlock.moves = s.moves := rfl
@[simp] theorem State.resetBlock_turn (s : State) : s.resetBlock.turn = s.turn := rfl

end Sys2Proof.Machine
end

