-- ==== Sys2Proof/Laws/Ops.lean ====
section
/-! SUPPORT. One lemma per shared operation: everything it can do. -/

namespace Sys2Proof.Machine

/-- A CMD write is ignored, rejected for its opcode, rejected for its length, or accepted. -/
theorem offerCommand_cases (v : Byte) (s : State) :
    (s.busy = true ∧ offerCommand v s = s) ∨
      (s.busy = false ∧ opcodeOf v = none ∧ offerCommand v s = s.raise .badOpcode) ∨
      ∃ op, s.busy = false ∧ opcodeOf v = some op ∧
        ((lenOk s.cfg op s.argLen = false ∧ offerCommand v s = s.raise .badLen) ∨
          (lenOk s.cfg op s.argLen = true ∧
            offerCommand v s = { s.raise .none with busy := true, cmdPend := some ⟨op, s.argLen, s.argDest⟩ })) := by
  unfold offerCommand
  cases hb : s.busy
  · cases ho : opcodeOf v with
    | none => exact .inr (.inl ⟨rfl, rfl, by simp⟩)
    | some op =>
      refine .inr (.inr ⟨op, rfl, rfl, ?_⟩)
      cases hl : lenOk s.cfg op s.argLen
      · exact .inl ⟨rfl, by simp [hl]⟩
      · exact .inr ⟨rfl, by simp [hl]⟩
  · exact .inl ⟨rfl, by simp⟩

/-- START_CMD waits, or starts the pending command. -/
theorem startCommand_cases (s : State) :
    (canStartCmd s = false ∧ startCommand s = s) ∨
      ∃ c, s.peOp = .none ∧ s.cmdPend = some c ∧
        startCommand s = startOperation c.op { s with cmdPend := none, peLen := c.len, peDest := c.dest } := by
  unfold startCommand
  by_cases h : canStartCmd s = true
  · rw [if_pos h]
    simp only [canStartCmd, Bool.and_eq_true, decide_eq_true_eq] at h
    obtain ⟨c, hc⟩ := Option.isSome_iff_exists.1 h.2
    exact .inr ⟨c, h.1, hc, by rw [hc]⟩
  · exact .inl ⟨by simpa using h, by rw [if_neg h]⟩

/-- `Append` stores a byte and stays RECEIVING, or overflows to IDLE. -/
theorem appendByte_cases (s : State) (x : Byte) :
    (s.decIdx.toNat < s.cfg.maxPkt ∧
        s.appendByte x =
          { s with
            mem := writeByte s.mem (accBase + s.decIdx.toNat) x
            decIdx := s.decIdx + 0x01#8
            decState := .receiving }) ∨
      (s.cfg.maxPkt ≤ s.decIdx.toNat ∧ s.appendByte x = { s with decState := .idle, decIdx := 0x00#8 }) := by
  unfold State.appendByte
  by_cases h : s.decIdx.toNat < s.cfg.maxPkt
  · exact .inl ⟨h, by rw [if_pos h]⟩
  · exact .inr ⟨by omega, by rw [if_neg h]⟩

/-- STX has nothing to take, or takes one byte, which may be the last. -/
theorem encStep_cases (s : State) :
    (serialOffer s = none ∧ encStep s = s) ∨
      ∃ b, s.peOp = .enc ∧ (encodedSrc s)[s.peI]? = some b ∧
        ((s.peI + 1 ≠ (encodedSrc s).length ∧ encStep s = { s.emit (.serialOut b) with peI := s.peI + 1 }) ∨
          (s.peI + 1 = (encodedSrc s).length ∧
            encStep s = { s.emit (.serialOut b) with peI := s.peI + 1, busy := false, peOp := .none })) := by
  unfold encStep
  cases h : serialOffer s with
  | none => exact .inl ⟨rfl, rfl⟩
  | some b =>
    unfold serialOffer at h
    split_ifs at h with he
    refine .inr ⟨b, he, h, ?_⟩
    by_cases hl : s.peI + 1 = (encodedSrc s).length
    · exact .inr ⟨hl, by simp only [if_pos hl]; rfl⟩
    · exact .inl ⟨hl, by simp only [if_neg hl]⟩

/-- RADIO takes no transaction, or takes the one PE offers with as many bytes as it asks for. -/
theorem radioStep_cases (data : List Byte) (s : State) :
    radioStep data s = s ∨
      ∃ r, radioOffer s = some r ∧ data.length = r.count ∧
        radioStep data s = radioAdvance data (s.emit (r.event data)) := by
  unfold radioStep
  cases h : radioOffer s with
  | none => exact .inl rfl
  | some r =>
    by_cases hl : data.length = r.count
    · exact .inr ⟨r, rfl, hl, by simp [hl]⟩
    · exact .inl (by simp [hl])

/-- A tick has no effect, counts, or times the transmit out. -/
theorem tickStep_cases (s : State) :
    tickStep s = s ∨
      ∃ n, s.cfg.txWaitLimit = some n ∧ inTxWait s = true ∧
        ((s.peWait + 1 < n ∧ tickStep s = { s with peWait := s.peWait + 1 }) ∨
          (n ≤ s.peWait + 1 ∧
            tickStep s = (({ s with peWait := s.peWait + 1 } : State).finishTransmit).raise .txTimeout)) := by
  unfold tickStep
  cases hn : s.cfg.txWaitLimit with
  | none => exact .inl rfl
  | some n =>
    by_cases hw : inTxWait s = true
    · refine .inr ⟨n, rfl, hw, ?_⟩
      by_cases hl : n ≤ s.peWait + 1
      · exact .inr ⟨hl, by simp [hw, hl]⟩
      · exact .inl ⟨by omega, by simp [hw, hl]⟩
    · exact .inl (by simp [hw])

/-- PE's internal step: T3, T4, X7, or nothing. -/
theorem peStep_cases (s : State) :
    peStep s = s ∨
      (transmitting s = true ∧ s.pePhase = .t3 ∧ s.pktSig = true ∧ peStep s = s.toPhase .t4) ∨
      (transmitting s = true ∧ s.pePhase = .t4 ∧ s.pktSig = false ∧ peStep s = s.finishTransmit) ∨
      (s.peOp = .rxd ∧ s.pePhase = .x7 ∧ peStep s = s.leaveRx) := by
  unfold peStep
  split
  · rename_i hp
    by_cases ht : transmitting s = true <;> cases hs : s.pktSig <;> simp [ht, hp, hs, stepT3]
  · rename_i hp
    by_cases ht : transmitting s = true <;> cases hs : s.pktSig <;> simp [ht, hp, hs, stepT4]
  · rename_i hp
    by_cases ht : s.peOp = .rxd <;> simp [ht, hp, stepX7]
  · exact .inl rfl

/-- A decoder row is not taken, or the byte leaves `srx` and the transition acts. -/
theorem takeTransition_cases (st : DecState) (b : Byte) (act : State → State) (s : State) :
    takeTransition st b act s = s ∨
      (s.srx = some b ∧ s.frmValid = false ∧ s.decState = st ∧
        takeTransition st b act s = act { s with srx := none }) := by
  unfold takeTransition
  by_cases h : (canFeed b s && decide (s.decState = st)) = true
  · rw [if_pos h]
    simp only [canFeed, Bool.and_eq_true, decide_eq_true_eq, Bool.not_eq_true'] at h
    exact .inr ⟨h.1.1, h.1.2, h.2, rfl⟩
  · rw [if_neg h]
    exact .inl rfl

/-- FEED waits, or takes the byte by the transition of (DEC_STATE, b). -/
theorem execFeed_cases (b : Byte) (s : State) :
    (canFeed b s = false ∧ execFeed b s = .next s) ∨
      (s.srx = some b ∧ s.frmValid = false ∧ execFeed b s = .next (feedAct s.decState b { s with srx := none })) := by
  unfold execFeed
  by_cases h : canFeed b s = true
  · rw [if_pos h]
    simp only [canFeed, Bool.and_eq_true, decide_eq_true_eq, Bool.not_eq_true'] at h
    exact .inr ⟨h.1, h.2, rfl⟩
  · rw [if_neg h]
    exact .inl ⟨by simpa using h, rfl⟩

/-- What a transition can do to the decoder. -/
theorem feedAct_cases (st : DecState) (b : Byte) (s : State) :
    feedAct st b s = s ∨ feedAct st b s = actIdleStart s ∨ feedAct st b s = actRecvEsc s ∨
      feedAct st b s = actRecvStart s ∨ feedAct st b s = actRecvEnd s ∨ ∃ x, feedAct st b s = s.appendByte x := by
  unfold feedAct
  cases st with
  | idle => by_cases h : b = startByte <;> simp [h, actIdleOther]
  | receiving =>
    by_cases h1 : b = escByte
    · simp [h1]
    · by_cases h2 : b = startByte
      · simp only [if_neg h1, if_pos h2, true_or, or_true]
      · by_cases h3 : b = endByte
        · simp only [if_neg h1, if_neg h2, if_pos h3, true_or, or_true]
        · simp only [if_neg h1, if_neg h2, if_neg h3]
          exact .inr (.inr (.inr (.inr (.inr ⟨b, rfl⟩))))
  | escapePending => exact .inr (.inr (.inr (.inr (.inr ⟨b ^^^ escMask, rfl⟩))))

/-- The FRM_ACK part has no effect, or delivers the frame. -/
theorem ackFramePart_cases (s : State) :
    (s.frmValid = false ∧ ackFramePart s = s) ∨
      (s.frmValid = true ∧ ackFramePart s = { s.emit (.frame (offeredFrame s)) with frmValid := false }) := by
  unfold ackFramePart
  cases h : s.frmValid
  · exact .inl ⟨rfl, by simp⟩
  · exact .inr ⟨rfl, by simp⟩

/-- The PKT_ACK part has no effect, or delivers the packet, with Wake when asked, and moves on to X7. -/
theorem ackPacketPart_cases (wake : Bool) (s : State) :
    (s.pktValid = false ∧ ackPacketPart wake s = s) ∨
      (s.pktValid = true ∧
        ackPacketPart wake s =
          { s with
            hist := s.hist ++ (Event.packet (offeredPacket s) wake :: if wake then [Event.wake] else [])
            pktValid := false
            pePhase := .x7 }) := by
  unfold ackPacketPart
  cases h : s.pktValid
  · exact .inl ⟨rfl, by simp⟩
  · refine .inr ⟨rfl, ?_⟩
    cases wake <;> simp [State.emit]

/-- A host write outside CMD and ACK is ignored, or stores one byte in ARG_LEN, ARG_DEST or SRC. -/
theorem hostStore_cases (a : HostAddr) (v : Byte) (s : State) :
    hostStore a v s = s ∨
      (s.busy = false ∧
        (hostStore a v s = { s with argLen := v } ∨ hostStore a v s = { s with argDest := v } ∨
          (isSrcAddr s.cfg a = true ∧ hostStore a v s = { s with mem := writeByte s.mem a.toNat v }))) := by
  unfold hostStore
  split_ifs with h1 h2 h3 h4
  · exact .inl rfl
  · exact .inr ⟨by simpa using h1, .inl rfl⟩
  · exact .inr ⟨by simpa using h1, .inr (.inl rfl)⟩
  · exact .inr ⟨by simpa using h1, .inr (.inr ⟨h4, rfl⟩)⟩
  · exact .inl rfl

end Sys2Proof.Machine
end

