-- ==== Sys2Proof/Laws/Step.lean ====
section
/-! SUPPORT. What one step can do: the queue, the fetched instruction, the agents' steps. -/

namespace Sys2Proof.Machine

/-- With a move queued, the step is that move on the state without it. -/
theorem step_cons {s : State} {m : Move} {ms : List Move} (h : s.moves = m :: ms) : step s = runMove m s.dequeue := by
  simp [step, h]

/-- With no move queued, the step is one of the block's own. -/
theorem step_nil {s : State} (h : s.moves = []) : step s = ownStep s := by simp [step, h]

/-- A move that fetches an instruction runs it. -/
theorem runMove_instr {s : State} {m : Move} {i : Instr} (h : fetchInstr s m = some i) : runMove m s = exec i s := by
  simp [runMove, h]

/-- A move that fetches none is its agent's own step. -/
theorem runMove_other {s : State} {m : Move} (h : fetchInstr s m = none) : runMove m s = .next (perform m s) := by
  simp [runMove, h]

theorem fetchInstr_of_decode {s : State} {m : Move} {t : Token} {i : Instr} (h : fetchToken s m = some t)
    (hd : decode t = .ok i) : fetchInstr s m = some i := by
  simp [fetchInstr, h, hd]

/-- The free choice picks one of the block's own enabled moves. -/
theorem ownStep_cases (s : State) :
    (ownMoves s = [] ∧ ownStep s = .next s) ∨
      ∃ m, m ∈ ownMoves s ∧ ownStep s = runMove m { s with turn := s.turn + 1 } := by
  unfold ownStep
  match h : ownMoves s with
  | [] => exact .inl ⟨rfl, rfl⟩
  | m :: ms =>
    refine .inr ⟨_, ?_, rfl⟩
    have hlt : Config.freeChoice s.turn % (ms.length + 1) < (m :: ms).length := Nat.mod_lt _ (by simp)
    rw [List.getD_eq_getElem?_getD, List.getElem?_eq_getElem hlt]
    exact List.getElem_mem hlt

/-- The block's own moves are the enabled ones of its four. -/
theorem mem_ownMoves {s : State} {m : Move} :
    m ∈ ownMoves s ↔ (m = .startCmd ∨ m = .startRx ∨ m = .pe ∨ m = .feed) ∧ enabled s m = true := by
  simp [ownMoves, List.mem_filter]

/-- Every step is one move: the queued one, one of the block's own, or none at all. -/
theorem step_cases (s : State) :
    (∃ m ms, s.moves = m :: ms ∧ step s = runMove m s.dequeue) ∨
      (s.moves = [] ∧ step s = .next s) ∨
      ∃ m, s.moves = [] ∧ m ∈ ownMoves s ∧ step s = runMove m { s with turn := s.turn + 1 } := by
  obtain ⟨m, ms, h⟩ | h : (∃ m ms, s.moves = m :: ms) ∨ s.moves = [] := by cases s.moves <;> simp
  · exact .inl ⟨m, ms, h, step_cons h⟩
  · rcases ownStep_cases s with ⟨_, h2⟩ | ⟨m, hm, h2⟩
    · exact .inr (.inl ⟨h, (step_nil h).trans h2⟩)
    · exact .inr (.inr ⟨m, h, hm, (step_nil h).trans h2⟩)

/-! ### What each move runs -/

/-- A step's queued move, on the state without it. -/
theorem step_queued {s : State} {m : Move} {ms : List Move} (h : s.moves = m :: ms) :
    step s = runMove m { s with moves := ms } := by
  rw [step_cons h]; simp [State.dequeue, h]

/-- Every instruction answers a next state. -/
theorem exec_answers_next (i : Instr) (s : State) : ∃ t, exec i s = .next t := by cases i <;> exact ⟨_, rfl⟩

/-- Every move answers a next state. -/
theorem runMove_answers_next (m : Move) (s : State) : ∃ t, runMove m s = .next t := by
  unfold runMove
  split
  · exact exec_answers_next _ _
  · exact ⟨_, rfl⟩

theorem runMove_command (v : Byte) (s : State) : runMove (.hostWrite 0x000#10 v) s = .next (offerCommand v s) := by
  have h : fetchInstr s (.hostWrite 0x000#10 v) = some (decodeCommand v) := by
    simp [fetchInstr, fetchToken, cmdAddr, decode]
  rw [runMove_instr h]
  unfold decodeCommand
  cases ho : opcodeOf v with
  | none => rfl
  | some op =>
    unfold opcodeOf at ho
    split_ifs at ho <;> cases ho <;> simp_all [exec, execEncSend, execTxPacket, execTxRaw, execSetup]

theorem runMove_ack (v : Byte) (s : State) :
    runMove (.hostWrite 0x004#10 v) s =
      if v.getLsbD 0 then execAckFrm (v.getLsbD 1) (v.getLsbD 2) s
      else if v.getLsbD 1 then execAckPkt (v.getLsbD 2) s
      else .next s := by
  simp only [runMove, fetchInstr, fetchToken, cmdAddr, ackAddr, decode, decodeAck]
  by_cases h0 : v.getLsbD 0 = true <;> by_cases h1 : v.getLsbD 1 = true <;>
    simp_all [exec, perform, cmdAddr, ackAddr]

theorem runMove_store {a : HostAddr} (v : Byte) (s : State) (h0 : a ≠ 0x000#10) (h4 : a ≠ 0x004#10) :
    runMove (.hostWrite a v) s = .next (hostStore a v s) := by
  simp [runMove, fetchInstr, fetchToken, cmdAddr, ackAddr, h0, h4, perform]

theorem runMove_hostRead (a : HostAddr) (s : State) :
    runMove (.hostRead a) s = .next { s with readData := some (hostRead s a) } := rfl
theorem runMove_startCmd (s : State) : runMove .startCmd s = .next (startCommand s) := rfl
theorem runMove_startRx (s : State) : runMove .startRx s = .next (if canStartRx s then s.enterRx else s) := rfl
theorem runMove_stx (s : State) : runMove .stx s = .next (encStep s) := rfl
theorem runMove_radio (d : List Byte) (s : State) : runMove (.radio d) s = .next (radioStep d s) := rfl
theorem runMove_pe (s : State) : runMove .pe s = .next (peStep s) := rfl
theorem runMove_srx (b : Byte) (s : State) : runMove (.srx b) s = .next (srxStep b s) := rfl
theorem runMove_sig (b : Bool) (s : State) : runMove (.sig b) s = .next (sigStep b s) := rfl
theorem runMove_tick (s : State) : runMove .tick s = .next (tickStep s) := rfl
theorem runMove_reset (s : State) : runMove .reset s = .next s.resetBlock := rfl

theorem runMove_feed {s : State} {b : Byte} (h : s.srx = some b) : runMove .feed s = execFeed b s := by
  simp [runMove, fetchInstr, fetchToken, h, decode, exec]

theorem runMove_feed_empty {s : State} (h : s.srx = none) : runMove .feed s = .next s := by
  simp [runMove, fetchInstr, fetchToken, h, perform]

end Sys2Proof.Machine
end

