-- ==== Sys2Proof/Laws/Effects.lean ====
section
/-! SUPPORT. Everything one move can do, said once: the cases of a move with their guards and next states. -/

namespace Sys2Proof.Machine

/-- `MoveEffect s m t`: from `s` the move `m` leads to `t`. One constructor per way a move acts; `waits` is the move
that changes nothing. The guards are necessary conditions, enough for the proofs that cite them. -/
inductive MoveEffect (s : State) : Move → State → Prop where
  | waits (m : Move) : MoveEffect s m s
  | hostReads (a : HostAddr) : MoveEffect s (.hostRead a) { s with readData := some (hostRead s a) }
  | badOpcode (v : Byte) : s.busy = false → opcodeOf v = none →
      MoveEffect s (.hostWrite 0x000#10 v) { s with err := .badOpcode }
  | badLen (v : Byte) (op : Opcode) : s.busy = false → opcodeOf v = some op → lenOk s.cfg op s.argLen = false →
      MoveEffect s (.hostWrite 0x000#10 v) { s with err := .badLen }
  | accepts (v : Byte) (op : Opcode) : s.busy = false → opcodeOf v = some op → lenOk s.cfg op s.argLen = true →
      MoveEffect s (.hostWrite 0x000#10 v)
        { s with err := .none, busy := true, cmdPend := some ⟨op, s.argLen, s.argDest⟩ }
  | acksFrame (v : Byte) : v.getLsbD 0 = true → s.frmValid = true →
      MoveEffect s (.hostWrite 0x004#10 v)
        { s with hist := s.hist ++ [.frame (offeredFrame s)], frmValid := false }
  | acksPacket (v : Byte) (ext : List Event) : v.getLsbD 1 = true → s.pktValid = true →
      ext = .packet (offeredPacket s) (v.getLsbD 2) :: (if v.getLsbD 2 then [Event.wake] else []) →
      MoveEffect s (.hostWrite 0x004#10 v)
        { s with hist := s.hist ++ ext, pktValid := false, pePhase := .x7 }
  | acksBoth (v : Byte) (ext : List Event) : v.getLsbD 0 = true → v.getLsbD 1 = true → s.frmValid = true →
      s.pktValid = true →
      ext = .frame (offeredFrame s) :: .packet (offeredPacket s) (v.getLsbD 2) ::
        (if v.getLsbD 2 then [Event.wake] else []) →
      MoveEffect s (.hostWrite 0x004#10 v)
        { s with hist := s.hist ++ ext, frmValid := false, pktValid := false, pePhase := .x7 }
  | storesLen (v : Byte) : s.busy = false → MoveEffect s (.hostWrite 0x001#10 v) { s with argLen := v }
  | storesDest (v : Byte) : s.busy = false → MoveEffect s (.hostWrite 0x002#10 v) { s with argDest := v }
  | storesSrc (a : HostAddr) (v : Byte) : s.busy = false → isSrcAddr s.cfg a = true →
      MoveEffect s (.hostWrite a v) { s with mem := writeByte s.mem a.toNat v }
  | startsEnc (c : PendCmd) : s.peOp = .none → s.cmdPend = some c → c.op = .encSend →
      MoveEffect s .startCmd
        { s with cmdPend := none, peLen := c.len, peDest := c.dest, peOp := .enc, pePhase := .enc, peI := 0 }
  | startsTxp (c : PendCmd) : s.peOp = .none → s.cmdPend = some c → c.op = .txPacket →
      MoveEffect s .startCmd
        { s with
          cmdPend := none, peLen := c.len, peDest := c.dest, peOp := .txp, pePhase := .t1, ie := false, peWait := 0 }
  | startsTxr (c : PendCmd) : s.peOp = .none → s.cmdPend = some c → c.op = .txRaw →
      MoveEffect s .startCmd
        { s with
          cmdPend := none, peLen := c.len, peDest := c.dest, peOp := .txr, pePhase := .t1, ie := false, peWait := 0 }
  | setsUp (c : PendCmd) : s.peOp = .none → s.cmdPend = some c → c.op = .setup →
      MoveEffect s .startCmd { s with cmdPend := none, peLen := c.len, peDest := c.dest, ie := true, busy := false }
  | entersRx : s.peOp = .none → s.ifg = true → s.ie = true →
      MoveEffect s .startRx { s with peOp := .rxd, pePhase := .x1 }
  | putsByte (b : Byte) : s.peOp = .enc → (encodedSrc s)[s.peI]? = some b → s.peI + 1 ≠ (encodedSrc s).length →
      MoveEffect s .stx { s with hist := s.hist ++ [.serialOut b], peI := s.peI + 1 }
  | putsLastByte (b : Byte) : s.peOp = .enc → (encodedSrc s)[s.peI]? = some b →
      s.peI + 1 = (encodedSrc s).length →
      MoveEffect s .stx
        { s with hist := s.hist ++ [.serialOut b], peI := s.peI + 1, busy := false, peOp := .none }
  | writesBurst : transmitting s = true → s.pePhase = .t1 →
      MoveEffect s (.radio [])
        { s with hist := s.hist ++ [.radioWB s.cfg.aTxFifo (txBytes s)], pePhase := .t2 }
  | strobesTx : transmitting s = true → s.pePhase = .t2 →
      MoveEffect s (.radio []) { s with hist := s.hist ++ [.radioST s.cfg.cmdStx], pePhase := .t3 }
  | findsNothing (v : Byte) : s.peOp = .rxd → s.pePhase = .x1 → occCount s.cfg v = 0 →
      MoveEffect s (.radio [v])
        { s with
          hist := s.hist ++ [.radioRS s.cfg.aRxBytes v], rxResult := ⟨false, false, false⟩, rxLen := 0x00#8
          rxRssi := 0x00#8, rxLqiCrc := 0x00#8, pePhase := .x7 }
  | findsBytes (v : Byte) : s.peOp = .rxd → s.pePhase = .x1 → occCount s.cfg v ≠ 0 →
      MoveEffect s (.radio [v]) { s with hist := s.hist ++ [.radioRS s.cfg.aRxBytes v], pePhase := .x2 }
  | readsFitting (l : Byte) : s.peOp = .rxd → s.pePhase = .x2 → l.toNat ≤ s.cfg.maxPkt →
      MoveEffect s (.radio [l]) { s with hist := s.hist ++ [.radioRR s.cfg.aRxFifo l], peL := l, pePhase := .x3 }
  | readsOversize (l : Byte) : s.peOp = .rxd → s.pePhase = .x2 → s.cfg.maxPkt < l.toNat →
      MoveEffect s (.radio [l]) { s with hist := s.hist ++ [.radioRR s.cfg.aRxFifo l], peL := l, pePhase := .x5 }
  | readsPayload (data : List Byte) : s.peOp = .rxd → s.pePhase = .x3 → data.length = s.peL.toNat →
      MoveEffect s (.radio data)
        { s with
          hist := s.hist ++ [.radioRB s.cfg.aRxFifo s.peL.toNat data], mem := writeBytes s.mem rxBase data
          pePhase := .x4 }
  | passesCrc (r q : Byte) : s.peOp = .rxd → s.pePhase = .x4 → crcOk q = true →
      MoveEffect s (.radio [r, q])
        { s with
          hist := s.hist ++ [.radioRB s.cfg.aRxFifo 2 [r, q]], rxRssi := r, rxLqiCrc := q, rxLen := s.peL
          rxResult := ⟨true, true, false⟩, pktValid := true, pePhase := .x6 }
  | failsCrc (r q : Byte) : s.peOp = .rxd → s.pePhase = .x4 → crcOk q = false →
      MoveEffect s (.radio [r, q])
        { s with
          hist := s.hist ++ [.radioRB s.cfg.aRxFifo 2 [r, q]], rxRssi := r, rxLqiCrc := q, rxLen := s.peL
          rxResult := ⟨true, false, false⟩, pePhase := .x7 }
  | flushes : s.peOp = .rxd → s.pePhase = .x5 →
      MoveEffect s (.radio [])
        { s with
          hist := s.hist ++ [.radioST s.cfg.cmdSfrx], rxLen := s.peL, rxRssi := 0x00#8, rxLqiCrc := 0x00#8
          rxResult := ⟨true, false, true⟩, pePhase := .x7 }
  | passesT3 : transmitting s = true → s.pePhase = .t3 → s.pktSig = true →
      MoveEffect s .pe { s with pePhase := .t4 }
  | endsTransmit : transmitting s = true → s.pePhase = .t4 → s.pktSig = false →
      MoveEffect s .pe { s with ifg := false, ie := true, busy := false, peOp := .none }
  | leavesRx : s.peOp = .rxd → s.pePhase = .x7 →
      MoveEffect s .pe
        { s with mem := clearBytes s.mem rxBase s.cfg.maxPkt, ifg := false, peOp := .none }
  | countsTick (n : Nat) : s.cfg.txWaitLimit = some n → inTxWait s = true → s.peWait + 1 < n →
      MoveEffect s .tick { s with peWait := s.peWait + 1 }
  | timesOut (n : Nat) : s.cfg.txWaitLimit = some n → inTxWait s = true → n ≤ s.peWait + 1 →
      MoveEffect s .tick
        { s with
          peWait := s.peWait + 1, ifg := false, ie := true, err := .txTimeout, busy := false, peOp := .none }
  | offersByte (b : Byte) : s.srx = none → MoveEffect s (.srx b) { s with srx := some b }
  | signalFalls : s.pktSig = true → MoveEffect s (.sig false) { s with pktSig := false, ifg := true }
  | signalSets (level : Bool) : ¬(s.pktSig = true ∧ level = false) →
      MoveEffect s (.sig level) { s with pktSig := level }
  | startsFrame (b : Byte) : s.srx = some b → s.frmValid = false →
      MoveEffect s .feed { s with srx := none, decState := .receiving, decIdx := 0x00#8 }
  | discardsByte (b : Byte) : s.srx = some b → s.frmValid = false → s.decState = .idle →
      MoveEffect s .feed { s with srx := none }
  | holdsEscape (b : Byte) : s.srx = some b → s.frmValid = false → s.decState = .receiving →
      MoveEffect s .feed { s with srx := none, decState := .escapePending }
  | endsFrame (b : Byte) : s.srx = some b → s.frmValid = false → s.decState = .receiving →
      MoveEffect s .feed
        { s with srx := none, frmLen := s.decIdx, frmValid := true, decState := .idle, decIdx := 0x00#8 }
  | appends (b x : Byte) : s.srx = some b → s.frmValid = false → s.decIdx.toNat < s.cfg.maxPkt →
      MoveEffect s .feed
        { s with
          srx := none, mem := writeByte s.mem (accBase + s.decIdx.toNat) x, decIdx := s.decIdx + 0x01#8
          decState := .receiving }
  | overflows (b : Byte) : s.srx = some b → s.frmValid = false → s.cfg.maxPkt ≤ s.decIdx.toNat →
      MoveEffect s .feed { s with srx := none, decState := .idle, decIdx := 0x00#8 }
  | resets : MoveEffect s .reset s.resetBlock

theorem effect_of_command (v : Byte) (s : State) : MoveEffect s (.hostWrite 0x000#10 v) (offerCommand v s) := by
  rcases offerCommand_cases v s with ⟨_, h⟩ | ⟨hb, ho, h⟩ | ⟨op, hb, ho, ⟨hl, h⟩ | ⟨hl, h⟩⟩ <;> rw [h]
  · exact .waits _
  · exact .badOpcode v hb ho
  · exact .badLen v op hb ho hl
  · exact .accepts v op hb ho hl

theorem effect_of_ack {v : Byte} {s t : State} (h : runMove (.hostWrite 0x004#10 v) s = .next t) :
    MoveEffect s (.hostWrite 0x004#10 v) t := by
  rw [runMove_ack] at h
  have hp : ∀ u : State, v.getLsbD 1 = true → u = ackPacketPart (v.getLsbD 2) s →
      MoveEffect s (.hostWrite 0x004#10 v) u := by
    rintro u h1 rfl
    rcases ackPacketPart_cases (v.getLsbD 2) s with ⟨_, h2⟩ | ⟨hv, h2⟩ <;> rw [h2]
    · exact .waits _
    · exact .acksPacket v _ h1 hv rfl
  split_ifs at h with h0 h1
  · unfold execAckFrm at h
    cases h1 : v.getLsbD 1 <;> simp only [h1, Bool.false_eq_true, if_false, if_true] at h <;> cases h
    · rcases ackFramePart_cases s with ⟨_, h2⟩ | ⟨hf, h2⟩ <;> rw [h2]
      · exact .waits _
      · exact .acksFrame v h0 hf
    · rcases ackFramePart_cases s with ⟨_, h2⟩ | ⟨hf, h2⟩ <;> rw [h2]
      · exact hp _ h1 rfl
      · rcases ackPacketPart_cases (v.getLsbD 2) { s.emit (.frame (offeredFrame s)) with frmValid := false } with
          ⟨_, h3⟩ | ⟨hv, h3⟩ <;> rw [h3]
        · exact .acksFrame v h0 hf
        · have := MoveEffect.acksBoth (s := s) v _ h0 h1 hf hv rfl
          simpa [State.emit, offeredPacket] using this
  · cases h; exact hp _ h1 rfl
  · cases h; exact .waits _

theorem effect_of_store (a : HostAddr) (v : Byte) (s : State) : MoveEffect s (.hostWrite a v) (hostStore a v s) := by
  unfold hostStore
  split_ifs with hb h1 h2 h3
  · exact .waits _
  · rw [h1]; exact .storesLen v (by simpa using hb)
  · rw [h2]; exact .storesDest v (by simpa using hb)
  · exact .storesSrc a v (by simpa using hb) h3
  · exact .waits _

theorem effect_of_startCommand (s : State) : MoveEffect s .startCmd (startCommand s) := by
  rcases startCommand_cases s with ⟨_, h⟩ | ⟨c, hp, hc, h⟩ <;> rw [h]
  · exact .waits _
  · cases ho : c.op
    · exact .startsEnc c hp hc ho
    · exact .startsTxp c hp hc ho
    · exact .startsTxr c hp hc ho
    · exact .setsUp c hp hc ho

theorem effect_of_encStep (s : State) : MoveEffect s .stx (encStep s) := by
  rcases encStep_cases s with ⟨_, h⟩ | ⟨b, hp, hb, ⟨hl, h⟩ | ⟨hl, h⟩⟩ <;> rw [h]
  · exact .waits _
  · exact .putsByte b hp hb hl
  · exact .putsLastByte b hp hb hl

theorem effect_of_txStep {data : List Byte} {s : State} (ht : transmitting s = true) :
    MoveEffect s (.radio data) (radioStep data s) := by
  have ho : radioOffer s = txOffer s := by
    simp only [transmitting, decide_eq_true_eq] at ht
    rcases ht with ht | ht <;> simp [radioOffer, ht]
  have ha : ∀ u : State, u.peOp = s.peOp → radioAdvance data u = txAdvance u := by
    intro u hu
    simp only [transmitting, decide_eq_true_eq] at ht
    rcases ht with ht | ht <;> simp [radioAdvance, hu, ht]
  rcases radioStep_cases data s with h | ⟨r, hr, hl, h⟩
  · rw [h]; exact .waits _
  · rw [h, ha (s.emit (r.event data)) rfl]
    rw [ho] at hr
    unfold txOffer at hr
    split at hr <;> cases hr
    · rename_i hp
      cases List.length_eq_zero_iff.1 hl
      have := MoveEffect.writesBurst ht hp
      simpa [txAdvance, hp, State.emit, State.toPhase, RadioReq.event] using this
    · rename_i hp
      cases List.length_eq_zero_iff.1 hl
      have := MoveEffect.strobesTx ht hp
      simpa [txAdvance, hp, State.emit, State.toPhase, RadioReq.event] using this

theorem effect_of_rxStep {data : List Byte} {s : State} (hr : s.peOp = .rxd) :
    MoveEffect s (.radio data) (radioStep data s) := by
  have ho : radioOffer s = rxOffer s := by simp [radioOffer, hr]
  rcases radioStep_cases data s with h | ⟨r, hq, hl, h⟩
  · rw [h]; exact .waits _
  · have ha : radioAdvance data (s.emit (r.event data)) = rxAdvance data (s.emit (r.event data)) := by
      simp [radioAdvance, hr]
    rw [h, ha]
    rw [ho] at hq
    unfold rxOffer at hq
    split at hq <;> cases hq <;> rename_i hp
    · obtain ⟨v, rfl⟩ := List.length_eq_one_iff.1 hl
      by_cases hz : occCount s.cfg v = 0
      · simpa [rxAdvance, hp, State.emit, RadioReq.event, stepX1, hz] using MoveEffect.findsNothing v hr hp hz
      · simpa [rxAdvance, hp, State.emit, State.toPhase, RadioReq.event, stepX1, hz]
          using MoveEffect.findsBytes v hr hp hz
    · obtain ⟨l, rfl⟩ := List.length_eq_one_iff.1 hl
      by_cases hz : l.toNat ≤ s.cfg.maxPkt
      · simpa [rxAdvance, hp, State.emit, RadioReq.event, stepX2, hz] using MoveEffect.readsFitting l hr hp hz
      · simpa [rxAdvance, hp, State.emit, RadioReq.event, stepX2, hz]
          using MoveEffect.readsOversize l hr hp (by omega)
    · simpa [rxAdvance, hp, State.emit, RadioReq.event, stepX3] using MoveEffect.readsPayload data hr hp hl
    · obtain ⟨r, q, rfl⟩ := List.length_eq_two.1 hl
      cases hz : crcOk q
      · simpa [rxAdvance, hp, State.emit, RadioReq.event, stepX4, hz] using MoveEffect.failsCrc r q hr hp hz
      · simpa [rxAdvance, hp, State.emit, RadioReq.event, stepX4, hz] using MoveEffect.passesCrc r q hr hp hz
    · cases List.length_eq_zero_iff.1 hl
      simpa [rxAdvance, hp, State.emit, RadioReq.event, stepX5] using MoveEffect.flushes hr hp

theorem effect_of_radio (data : List Byte) (s : State) : MoveEffect s (.radio data) (radioStep data s) := by
  by_cases hr : s.peOp = .rxd
  · exact effect_of_rxStep hr
  · by_cases ht : transmitting s = true
    · exact effect_of_txStep ht
    · have : radioOffer s = none := by
        simp only [transmitting, decide_eq_true_eq, not_or] at ht
        cases hp : s.peOp <;> simp_all [radioOffer]
      simpa [radioStep, this] using MoveEffect.waits (s := s) (.radio data)

theorem effect_of_pe (s : State) : MoveEffect s .pe (peStep s) := by
  rcases peStep_cases s with h | ⟨ht, hp, hs, h⟩ | ⟨ht, hp, hs, h⟩ | ⟨hr, hp, h⟩ <;> rw [h]
  · exact .waits _
  · exact .passesT3 ht hp hs
  · exact .endsTransmit ht hp hs
  · exact .leavesRx hr hp

theorem effect_of_tick (s : State) : MoveEffect s .tick (tickStep s) := by
  rcases tickStep_cases s with h | ⟨n, hn, hw, ⟨hl, h⟩ | ⟨hl, h⟩⟩ <;> rw [h]
  · exact .waits _
  · exact .countsTick n hn hw hl
  · exact .timesOut n hn hw hl

theorem effect_of_sig (level : Bool) (s : State) : MoveEffect s (.sig level) (sigStep level s) := by
  by_cases h : s.pktSig = true ∧ level = false
  · obtain ⟨hs, rfl⟩ := h
    simpa [sigStep, hs] using MoveEffect.signalFalls hs
  · have : (s.ifg || (s.pktSig && !level)) = s.ifg := by cases hs : s.pktSig <;> cases level <;> simp_all
    simpa only [sigStep, this] using MoveEffect.signalSets level h

theorem effect_of_feed {b : Byte} {s : State} {st : DecState} (hs : s.srx = some b) (hf : s.frmValid = false)
    (hd : s.decState = st) : MoveEffect s .feed (feedAct st b { s with srx := none }) := by
  have happ : ∀ x, MoveEffect s .feed (State.appendByte { s with srx := none } x) := by
    intro x
    rcases appendByte_cases { s with srx := none } x with ⟨hl, h⟩ | ⟨hl, h⟩ <;> rw [h]
    · exact .appends b x hs hf hl
    · exact .overflows b hs hf hl
  cases st with
  | idle =>
    simp only [feedAct]
    split_ifs
    · exact .startsFrame b hs hf
    · exact .discardsByte b hs hf hd
  | receiving =>
    simp only [feedAct]
    split_ifs
    · exact .holdsEscape b hs hf hd
    · have := MoveEffect.startsFrame b hs hf
      rwa [← hd] at this
    · exact .endsFrame b hs hf hd
    · exact happ b
  | escapePending => exact happ _

/-- Everything one move can do. -/
theorem effect_of_runMove {m : Move} {s t : State} (h : runMove m s = .next t) : MoveEffect s m t := by
  cases m with
  | hostRead a => cases h; exact .hostReads a
  | hostWrite a v =>
    by_cases h0 : a = 0x000#10
    · subst h0; rw [runMove_command] at h; cases h; exact effect_of_command v s
    · by_cases h4 : a = 0x004#10
      · subst h4; exact effect_of_ack h
      · rw [runMove_store v s h0 h4] at h; cases h; exact effect_of_store a v s
  | startCmd => cases h; exact effect_of_startCommand s
  | startRx =>
    rw [runMove_startRx] at h
    split_ifs at h with hc <;> cases h
    · simp only [canStartRx, Bool.and_eq_true, decide_eq_true_eq] at hc
      exact .entersRx hc.1.1 hc.1.2 hc.2
    · exact .waits _
  | stx => cases h; exact effect_of_encStep s
  | radio d => cases h; exact effect_of_radio d s
  | pe => cases h; exact effect_of_pe s
  | feed =>
    cases hs : s.srx with
    | none => rw [runMove_feed_empty hs] at h; cases h; exact .waits _
    | some b =>
      rw [runMove_feed hs] at h
      rcases execFeed_cases b s with ⟨_, h2⟩ | ⟨_, hf, h2⟩ <;> rw [h2] at h <;> cases h
      · exact .waits _
      · exact effect_of_feed hs hf rfl
  | srx b =>
    cases h
    show MoveEffect s (.srx b) (srxStep b s)
    cases hs : s.srx with
    | none => simpa [srxStep, hs] using MoveEffect.offersByte b hs
    | some x => simpa [srxStep, hs] using MoveEffect.waits (s := s) (.srx b)
  | sig b => cases h; exact effect_of_sig b s
  | tick => cases h; exact effect_of_tick s
  | reset => cases h; exact .resets

/-- Everything one step can do: a queued move, one of the block's own, or nothing at all. -/
theorem effect_of_step {s t : State} (h : step s = .next t) :
    (s.moves = [] ∧ t = s) ∨ (∃ m ms, s.moves = m :: ms ∧ MoveEffect { s with moves := ms } m t) ∨
      ∃ m, s.moves = [] ∧ m ∈ ownMoves s ∧ MoveEffect { s with turn := s.turn + 1 } m t := by
  rcases step_cases s with ⟨m, ms, hm, hs⟩ | ⟨hm, hs⟩ | ⟨m, hm, ho, hs⟩
  · rw [step_queued hm] at h
    exact .inr (.inl ⟨m, ms, hm, effect_of_runMove h⟩)
  · rw [hs] at h; cases h
    exact .inl ⟨hm, rfl⟩
  · rw [hs] at h
    exact .inr (.inr ⟨m, hm, ho, effect_of_runMove h⟩)

end Sys2Proof.Machine
end

