-- ==== Sys2Proof/Laws/PerInstr.lean ====
section
/-! SUPPORT. The per-instruction family: whatever an instruction's encoding decodes to is well formed, also where the
term itself is not (a CMD write of 0x01 spelt as an illegal opcode decodes to ENC_SEND). -/

namespace Sys2Proof.Laws.EncodingIsLegal

open Machine

/-- What the encoding of `i` decodes to is a well-formed instruction. -/
def Statement (i : Instr) : Prop := ∀ j, decode (encode i) = .ok j → j.wellFormed = true

theorem command (v : Byte) : (decodeCommand v).wellFormed = true := by
  unfold decodeCommand opcodeOf
  split_ifs <;> simp_all [Instr.wellFormed]

theorem acknowledgement {v : Byte} {j : Instr} (h : decodeAck v = .ok j) : j.wellFormed = true := by
  unfold decodeAck at h
  split_ifs at h <;> cases h <;> rfl

theorem transition (st : DecState) (b : Byte) : (decodeTransition st b).wellFormed = true := by
  have hr : ∀ b : Byte, ¬b = escByte → ¬b = startByte → ¬b = endByte → reserved b = false := by decide
  cases st <;> simp only [decodeTransition] <;> (try split_ifs) <;> simp_all [Instr.wellFormed]

theorem of_command {i : Instr} {v : Byte} (h : encode i = .cmd v) : Statement i := by
  intro j hj
  rw [h] at hj
  cases hj
  exact command v

theorem of_ack {i : Instr} {v : Byte} (h : encode i = .ack v) : Statement i := by
  intro j hj
  rw [h] at hj
  exact acknowledgement hj

theorem of_transition {i : Instr} {st : DecState} {b : Byte} (h : encode i = .transition st b) : Statement i := by
  intro j hj
  rw [h] at hj
  cases hj
  exact transition st b

theorem encSend : Statement .encSend := of_command rfl
theorem txPacket : Statement .txPacket := of_command rfl
theorem txRaw : Statement .txRaw := of_command rfl
theorem setup : Statement .setup := of_command rfl
theorem illegalOpcode (op : Byte) : Statement (.illegalOpcode op) := of_command rfl
theorem ackFrm (pkt wake : Bool) : Statement (.ackFrm pkt wake) := of_ack rfl
theorem ackPkt (wake : Bool) : Statement (.ackPkt wake) := of_ack rfl
theorem rxDispatch : Statement .rxDispatch := by rintro _ ⟨⟩; rfl
theorem feed (b : Byte) : Statement (.feed b) := by rintro _ ⟨⟩; rfl
theorem feedIdleStart : Statement .feedIdleStart := of_transition rfl
theorem feedIdleOther (b : Byte) : Statement (.feedIdleOther b) := of_transition rfl
theorem feedRecvEsc : Statement .feedRecvEsc := of_transition rfl
theorem feedRecvStart : Statement .feedRecvStart := of_transition rfl
theorem feedRecvEnd : Statement .feedRecvEnd := of_transition rfl
theorem feedRecvData (b : Byte) : Statement (.feedRecvData b) := of_transition rfl
theorem feedEscAny (b : Byte) : Statement (.feedEscAny b) := of_transition rfl
theorem reset : Statement .reset := by rintro _ ⟨⟩; rfl

end Sys2Proof.Laws.EncodingIsLegal
end

