-- ==== Sys2Proof/Tests/Slice0.lean ====
section
/-! SUPPORT. Tests of one step each, with expected values from 95_test_vectors.md or the rule named, and the witnesses:
for every statement with hypotheses, a state and operands that meet them, at the boundaries of its clauses. -/

namespace Sys2Proof.Tests

open Machine

/-- A field of the next state. -/
def field {α : Type} (f : State → α) : Host.Outcome State Fault Refusal → Option α
  | .next t => some (f t)
  | .fault _ => none
  | .refused _ => none

/-- The reset state with ARG_LEN and the queue given. -/
def idle (len : Byte) (ms : List Move) : State := { State.reset with argLen := len, moves := ms }

/-- SRC = [AA BB], with the command `op` pending. -/
def pending (op : Opcode) (ms : List Move) : State :=
  { State.reset with
    mem := [(0x100, 0xAA#8), (0x101, 0xBB#8)], busy := true, cmdPend := some ⟨op, 0x02#8, 0x05#8⟩, moves := ms }

/-- SRC = [AA BB], len 2, destination 05, and PE in `op` at `p`. -/
def running (op : PeOp) (p : Phase) (ms : List Move) : State :=
  { State.reset with
    mem := [(0x100, 0xAA#8), (0x101, 0xBB#8)], busy := true, peOp := op, pePhase := p, peLen := 0x02#8, peDest := 0x05#8
    moves := ms }

/-- RX_DISPATCH at `p` with pe_L = `l`. -/
def receiving (p : Phase) (l : Byte) (ms : List Move) : State :=
  { State.reset with ie := true, ifg := true, peOp := .rxd, pePhase := p, peL := l, moves := ms }

/-- The decoder in `st` at DEC_IDX `i` with MAX_PKT = 4, `b` on offer. -/
def decoding (st : DecState) (i b : Byte) : State :=
  { State.reset with cfg := { maxPkt := 4 }, decState := st, decIdx := i, srx := some b }

/-- VH17: the frame [41] and the packet [05] on offer. -/
def offering (ms : List Move) : State :=
  { State.reset with
    mem := [(0x200, 0x05#8), (0x300, 0x41#8)], ie := true, ifg := true, frmValid := true, frmLen := 0x01#8
    pktValid := true, rxLen := 0x01#8, rxResult := ⟨true, true, false⟩, rxLqiCrc := 0x80#8, peOp := .rxd, pePhase := .x6
    peL := 0x01#8, moves := ms }

/-! ### WellFormed refuses what the rows exclude -/

theorem test_illegal_opcode_row_excludes_the_opcodes :
    (Instr.illegalOpcode 0x01#8).wellFormed = false ∧ (Instr.illegalOpcode 0x02#8).wellFormed = false ∧
      (Instr.illegalOpcode 0x03#8).wellFormed = false ∧ (Instr.illegalOpcode 0x04#8).wellFormed = false := by decide

theorem test_idle_other_row_excludes_start : (Instr.feedIdleOther 0x7E#8).wellFormed = false := by decide

theorem test_recv_data_row_excludes_the_band :
    (Instr.feedRecvData 0x7D#8).wellFormed = false ∧ (Instr.feedRecvData 0x7E#8).wellFormed = false ∧
      (Instr.feedRecvData 0x7F#8).wellFormed = false := by decide

/-! ### Words written out from R82, R84 and R88 -/

theorem test_decode_encSend : decode (.cmd 0b00000001#8) = .ok .encSend := by rfl
theorem test_decode_txPacket : decode (.cmd 0b00000010#8) = .ok .txPacket := by rfl
theorem test_decode_txRaw : decode (.cmd 0b00000011#8) = .ok .txRaw := by rfl
theorem test_decode_setup : decode (.cmd 0b00000100#8) = .ok .setup := by rfl
theorem test_decode_illegalOpcode : decode (.cmd 0b00000000#8) = .ok (.illegalOpcode 0x00#8) ∧
    decode (.cmd 0b00000101#8) = .ok (.illegalOpcode 0x05#8) := by decide
theorem test_decode_ackFrm : decode (.ack 0b00000001#8) = .ok (.ackFrm false false) ∧
    decode (.ack 0b11111111#8) = .ok (.ackFrm true true) := by decide
theorem test_decode_ackPkt : decode (.ack 0b00000010#8) = .ok (.ackPkt false) ∧
    decode (.ack 0b00000110#8) = .ok (.ackPkt true) := by decide
theorem test_decode_ack_of_nothing : decode (.ack 0b11111100#8) = .error .nothingAcknowledged := by rfl
theorem test_decode_rxDispatch : decode .rxTrigger = .ok .rxDispatch := by rfl
theorem test_decode_feed : decode (.serial 0b01000001#8) = .ok (.feed 0x41#8) := by rfl
theorem test_decode_feedIdleStart : decode (.transition .idle 0b01111110#8) = .ok .feedIdleStart := by rfl
theorem test_decode_feedIdleOther : decode (.transition .idle 0b01111111#8) = .ok (.feedIdleOther 0x7F#8) := by rfl
theorem test_decode_feedRecvEsc : decode (.transition .receiving 0b01111101#8) = .ok .feedRecvEsc := by rfl
theorem test_decode_feedRecvStart : decode (.transition .receiving 0b01111110#8) = .ok .feedRecvStart := by rfl
theorem test_decode_feedRecvEnd : decode (.transition .receiving 0b01111111#8) = .ok .feedRecvEnd := by rfl
theorem test_decode_feedRecvData : decode (.transition .receiving 0b10000000#8) = .ok (.feedRecvData 0x80#8) ∧
    decode (.transition .receiving 0b01111100#8) = .ok (.feedRecvData 0x7C#8) := by decide
theorem test_decode_feedEscAny : decode (.transition .escapePending 0b01111110#8) = .ok (.feedEscAny 0x7E#8) := by rfl
theorem test_decode_reset : decode .resetStep = .ok .reset := by rfl

/-- A bare table byte is read as its most specific row (log 10); only 8-bit words exist. -/
theorem test_table_words :
    decodeTableWord 8 0x01 = some .encSend ∧ decodeTableWord 8 0x7E = some .feedIdleStart ∧
      decodeTableWord 8 0x7F = some .feedRecvEnd ∧ decodeTableWord 8 0x06 = some (.ackPkt true) ∧
      decodeTableWord 8 0x00 = some (.illegalOpcode 0x00#8) ∧ decodeTableWord 16 0x01 = none := by decide

theorem test_fetch_word_runs_first :
    field State.cmdPend (step (State.reset.withFetchWord 8 0x04)) = some (some ⟨.setup, 0x00#8, 0x00#8⟩) := by rfl

theorem test_fetch_transition_runs_first :
    field State.decState (step (State.reset.withFetchWord 8 0x7E)) = some .receiving := by rfl

/-! ### Commands -/

/-- VE6: length 66 is rejected, STATUS = 0x04. -/
theorem test_encSend_too_long : field statusByte (exec .encSend (idle 66#8 [])) = some 0x04#8 := by decide
/-- VE5: length 65 = SRC_CAP is accepted, STATUS = 0x01. -/
theorem test_encSend_longest : field statusByte (exec .encSend (idle 65#8 [])) = some 0x01#8 := by decide
/-- VT4: TX_PACKET of 64 bytes is rejected. -/
theorem test_txPacket_too_long : field statusByte (exec .txPacket (idle 64#8 [])) = some 0x04#8 := by decide
/-- VT3: TX_PACKET of 63 bytes is accepted. -/
theorem test_txPacket_longest : field statusByte (exec .txPacket (idle 63#8 [])) = some 0x01#8 := by decide
/-- VT7, VT9: TX_RAW of 0 or 66 bytes is rejected. -/
theorem test_txRaw_bad_length : field statusByte (exec .txRaw (idle 0#8 [])) = some 0x04#8 ∧
    field statusByte (exec .txRaw (idle 66#8 [])) = some 0x04#8 := by decide
/-- VT8: TX_RAW of 65 bytes is accepted. -/
theorem test_txRaw_longest : field statusByte (exec .txRaw (idle 65#8 [])) = some 0x01#8 := by decide
/-- VH2: after SETUP's START_CMD STATUS = 0x10. -/
theorem test_setup_starts : field statusByte (step (pending .setup [.startCmd])) = some 0x10#8 := by decide
/-- VH6: an accepted command clears ERR. -/
theorem test_setup_clears_err :
    field State.err (exec .setup { State.reset with err := .badOpcode }) = some .none := by decide
/-- VH3, VH5: 0x00 and 0xFF raise BAD_OPCODE, STATUS = 0x02. -/
theorem test_illegalOpcode : field statusByte (exec (.illegalOpcode 0x00#8) State.reset) = some 0x02#8 ∧
    field statusByte (exec (.illegalOpcode 0xFF#8) State.reset) = some 0x02#8 := by decide
/-- VE7: a CMD write while BUSY = 1 changes nothing. -/
theorem test_illegalOpcode_while_busy :
    exec (.illegalOpcode 0x00#8) (pending .setup []) = .next (pending .setup []) := by rfl

/-! ### ENC_SEND, TX_PACKET, TX_RAW -/

/-- VE3 and VE4. -/
theorem test_encode : encodeFrame [0x7D#8, 0x7E#8, 0x7F#8] =
      [0x7E#8, 0x7D#8, 0x5D#8, 0x7D#8, 0x5E#8, 0x7D#8, 0x5F#8, 0x7F#8] ∧
    encodeFrame [0x00#8, 0x5D#8, 0x5E#8, 0x5F#8, 0x7C#8, 0x80#8, 0xFF#8] =
      [0x7E#8, 0x00#8, 0x5D#8, 0x5E#8, 0x5F#8, 0x7C#8, 0x80#8, 0xFF#8, 0x7F#8] := by decide
/-- R182: the last byte, END, frees PE and clears BUSY. -/
theorem test_enc_last_byte : field (fun t => (t.hist, t.busy, t.peOp))
    (step { running .enc .enc [.stx] with peI := 3 }) = some ([.serialOut 0x7F#8], false, .none) := by decide
/-- VT2 (W7): T1 writes [03 05 AA BB]. -/
theorem test_txPacket_burst : field State.hist (step (running .txp .t1 [.radio []])) =
    some [.radioWB 0x3F#8 [0x03#8, 0x05#8, 0xAA#8, 0xBB#8]] := by decide
/-- VT10: TX_RAW sends SRC as written. -/
theorem test_txRaw_burst : field State.hist (step (running .txr .t1 [.radio []])) =
    some [.radioWB 0x3F#8 [0xAA#8, 0xBB#8]] := by decide
/-- The handshake table of VT2: T4 after the falling edge gives STATUS = 0x10. -/
theorem test_transmit_completes :
    field statusByte (step { running .txp .t4 [.pe] with ifg := true }) = some 0x10#8 := by decide
/-- VT13: the second tick times out, STATUS = 0x16. -/
theorem test_transmit_times_out : field statusByte
    (step { running .txr .t3 [.tick] with cfg := { txWaitLimit := some 2 }, peWait := 1 }) = some 0x16#8 := by decide

/-! ### RX_DISPATCH -/

/-- VR11: with IE = 0 the trigger waits. -/
theorem test_rxDispatch_waits_for_enable :
    field State.peOp (exec .rxDispatch { State.reset with ifg := true }) = some .none := by decide
/-- R107: with IFG = IE = 1 it starts at X1. -/
theorem test_rxDispatch_starts :
    field State.pePhase (exec .rxDispatch { State.reset with ifg := true, ie := true }) = some .x1 := by decide
/-- VR5, VR6: 64 fits and 65 does not. -/
theorem test_length_byte : field State.pePhase (step (receiving .x2 0x00#8 [.radio [0x40#8]])) = some .x3 ∧
    field State.pePhase (step (receiving .x2 0x00#8 [.radio [0x41#8]])) = some .x5 := by decide
/-- W5 and P3: the CRC bit gates the delivery. -/
theorem test_crc_gate : field State.pktValid (step (receiving .x4 3#8 [.radio [0x2A#8, 0x05#8]])) = some false ∧
    field State.pktValid (step (receiving .x4 3#8 [.radio [0x2A#8, 0x85#8]])) = some true := by decide
/-- Section 2.3. -/
theorem test_crcOk : crcOk 0x80#8 = true ∧ crcOk 0xFF#8 = true ∧ crcOk 0x7F#8 = false ∧ crcOk 0x00#8 = false ∧
    crcOk 0x85#8 = true ∧ crcOk 0x05#8 = false := by decide

/-! ### ACK -/

/-- VH17: both in one step. -/
theorem test_ackFrm_both : field State.hist (exec (.ackFrm true true) (offering [])) =
    some [.frame [0x41#8], .packet [0x05#8] true, .wake] := by decide
/-- R214: FRM_ACK alone leaves the packet on offer. -/
theorem test_ackFrm_alone : field (fun t => (t.frmValid, t.pktValid)) (exec (.ackFrm false true) (offering [])) =
    some (false, true) := by decide
/-- P3, without WAKE: the packet is delivered and X7 follows. -/
theorem test_ackPkt : field (fun t => (t.hist, t.pePhase)) (exec (.ackPkt false) (offering [])) =
    some ([.packet [0x05#8] false], .x7) := by decide
/-- VD19: PKT_ACK does not touch the frame. -/
theorem test_ackPkt_leaves_frame : field State.frmValid (exec (.ackPkt true) (offering [])) = some true := by decide

/-! ### FEED -/

/-- D1 (VD2). -/
theorem test_feedIdleStart : field (fun t => (t.decState, t.srx)) (exec .feedIdleStart (decoding .idle 0#8 0x7E#8)) =
    some (.receiving, none) := by decide
/-- D2 (VD1). -/
theorem test_feedIdleOther : field (fun t => (t.decState, t.srx))
    (exec (.feedIdleOther 0x7F#8) (decoding .idle 0#8 0x7F#8)) = some (.idle, none) := by decide
/-- D3 (VD8). -/
theorem test_feedRecvEsc : field (fun t => (t.decState, t.decIdx))
    (exec .feedRecvEsc (decoding .receiving 1#8 0x7D#8)) = some (.escapePending, 1#8) := by decide
/-- D4 (W2). -/
theorem test_feedRecvStart : field (fun t => (t.decState, t.decIdx))
    (exec .feedRecvStart (decoding .receiving 1#8 0x7E#8)) = some (.receiving, 0#8) := by decide
/-- D5 (VD13): a frame of exactly MAX_PKT. -/
theorem test_feedRecvEnd : field (fun t => (t.frmLen, t.frmValid))
    (exec .feedRecvEnd (decoding .receiving 4#8 0x7F#8)) = some (4#8, true) := by decide
/-- D6 (VD13): the fourth byte fits. -/
theorem test_feedRecvData : field (fun t => (t.mem, t.decIdx))
    (exec (.feedRecvData 0x04#8) (decoding .receiving 3#8 0x04#8)) = some ([(0x303, 0x04#8)], 4#8) := by decide
/-- VD14: the fifth does not. -/
theorem test_feedRecvData_overflow : field (fun t => (t.mem, t.decState, t.decIdx))
    (exec (.feedRecvData 0x05#8) (decoding .receiving 4#8 0x05#8)) = some ([], .idle, 0#8) := by decide
/-- D7 (VD4): START after ESC is the data byte 0x5E. -/
theorem test_feedEscAny : field (fun t => (t.mem, t.decState))
    (exec (.feedEscAny 0x7E#8) (decoding .escapePending 0#8 0x7E#8)) = some ([(0x300, 0x5E#8)], .receiving) := by decide
/-- VD15: the append after an ESC taken at DEC_IDX = MAX_PKT overflows. -/
theorem test_feedEscAny_overflow : field (fun t => (t.mem, t.decState))
    (exec (.feedEscAny 0x5D#8) (decoding .escapePending 4#8 0x5D#8)) = some ([], .idle) := by decide
/-- VD3 by FEED itself. -/
theorem test_feed : field State.mem (exec (.feed 0x5E#8) (decoding .escapePending 0#8 0x5E#8)) =
    some [(0x300, 0x7E#8)] := by decide
/-- VD18: FEED waits while a frame is on offer. -/
theorem test_feed_waits : field State.srx
    (exec (.feed 0x7E#8) { decoding .idle 0#8 0x7E#8 with frmValid := true }) = some (some 0x7E#8) := by decide

/-! ### RESET and the host port -/

/-- VX1: registers and buffers read 0x00; `srx` and `hist` stay (VX3). -/
theorem test_reset : field (fun t => (statusByte t, t.rxLen, t.mem)) (exec .reset (offering [])) =
    some (0x00#8, 0x00#8, []) := by decide
theorem test_reset_keeps_inputs : field (fun t => (t.srx, t.hist))
    (exec .reset { offering [] with srx := some 0x7E#8, hist := [.wake] }) = some (some 0x7E#8, [.wake]) := by decide
/-- VH12, VH11: SRC[64] stores, offset 65 is reserved. -/
theorem test_write_src_end : field State.mem (step (idle 0#8 [.hostWrite 0x140#10 0x55#8])) = some [(0x140, 0x55#8)] ∧
    field State.mem (step (idle 0#8 [.hostWrite 0x141#10 0x55#8])) = some [] := by decide
/-- VH13, VH14: RXBUF and STATUS are read-only. -/
theorem test_write_read_only : step (idle 0#8 [.hostWrite 0x200#10 0x55#8]) = .next (idle 0#8 []) ∧
    step (idle 0#8 [.hostWrite 0x003#10 0xFF#8]) = .next (idle 0#8 []) := ⟨rfl, rfl⟩
/-- P3: with the packet on offer STATUS reads 0xB0, and 0xF0 with a frame too. -/
theorem test_read_status : field State.readData (step (offering [.hostRead 0x003#10])) = some (some 0xF0#8) := by decide
/-- R69: a falling edge sets IFG with IE = 0 (VR11: STATUS = 0x20). -/
theorem test_falling_edge :
    field statusByte (step { idle 0#8 [.sig false] with pktSig := true }) = some 0x20#8 := by decide

/-! ### Witnesses: states and operands that meet the hypotheses of each statement -/

theorem test_witness_DecodeOfEncodeIsTheInstruction :
    (Instr.illegalOpcode 0x05#8).wellFormed = true ∧ (Instr.feedIdleOther 0x7F#8).wellFormed = true ∧
      (Instr.feedRecvData 0x80#8).wellFormed = true := by decide

theorem test_witness_EncodeOfDecodeKeepsEveryBit : decode (.ack 0xFE#8) = .ok (.ackPkt true) ∧
    decode (.cmd 0x05#8) = .ok (.illegalOpcode 0x05#8) := by decide

theorem test_witness_StepRunsTheDecodedInstruction :
    (idle 0#8 [.hostWrite 0x000#10 0x01#8]).moves = .hostWrite 0x000#10 0x01#8 :: [] ∧
      fetchToken (idle 0#8 [.hostWrite 0x000#10 0x01#8]) (.hostWrite 0x000#10 0x01#8) = some (.cmd 0x01#8) ∧
      decode (.cmd 0x01#8) = .ok .encSend := ⟨rfl, rfl, rfl⟩

theorem test_witness_EveryStepIsOneMove : step State.reset = .next State.reset ∧
    step (pending .setup [.startCmd]) = .next (startCommand (pending .setup [])) ∧
    step (pending .setup []) = .next (startCommand { pending .setup [] with turn := 1 }) := by
  refine ⟨rfl, rfl, ?_⟩
  show runMove ([Move.startCmd].getD (Config.freeChoice 0 % 1) .startCmd) _ = _
  rw [Nat.mod_one]
  rfl

theorem test_witness_CommandWriteFollowsTheAcceptanceRule :
    (pending .setup [.hostWrite 0x000#10 0x04#8]).busy = true ∧ (idle 0#8 [.hostWrite 0x000#10 0x05#8]).busy = false ∧
      (0x00#8 ≠ 0x01#8 ∧ 0x00#8 ≠ 0x02#8 ∧ 0x00#8 ≠ 0x03#8 ∧ 0x00#8 ≠ 0x04#8) ∧
      (0x05#8 ≠ 0x01#8 ∧ 0x05#8 ≠ 0x02#8 ∧ 0x05#8 ≠ 0x03#8 ∧ 0x05#8 ≠ 0x04#8) ∧
      (idle 65#8 []).argLen.toNat = State.reset.cfg.maxPkt + 1 ∧ (idle 63#8 []).argLen.toNat = State.reset.cfg.maxPkt - 1 ∧
      1 ≤ (idle 1#8 []).argLen.toNat ∧ ¬1 ≤ (idle 0#8 []).argLen.toNat ∧
      State.reset.cfg.maxPkt + 1 < (idle 66#8 []).argLen.toNat := by decide

theorem test_witness_LegalCommandIsAccepted :
    (idle 65#8 []).busy = false ∧ (idle 65#8 []).argLen.toNat ≤ (idle 65#8 []).cfg.maxPkt + 1 ∧
      (idle 63#8 []).argLen.toNat ≤ (idle 63#8 []).cfg.maxPkt - 1 ∧ 1 ≤ (idle 1#8 []).argLen.toNat ∧
      (idle 1#8 []).argLen.toNat ≤ (idle 1#8 []).cfg.maxPkt + 1 := by decide

theorem test_witness_IllegalOpcodeRaisesBadOpcode : State.reset.busy = false ∧ (0x00#8 : Byte) = 0x00#8 ∧
    0x05 ≤ (0x05#8 : Byte).toNat ∧ 0x05 ≤ (0xFF#8 : Byte).toNat := by decide

theorem test_witness_BadLengthIsRejected : (idle 66#8 []).busy = false ∧
    (idle 66#8 []).cfg.maxPkt + 1 < (idle 66#8 []).argLen.toNat ∧
    (idle 64#8 []).cfg.maxPkt - 1 < (idle 64#8 []).argLen.toNat ∧ (idle 0#8 []).argLen.toNat = 0 := by decide

theorem test_witness_WritesWhileBusyAreLost : (pending .setup [.hostWrite 0x1FF#10 0x55#8]).busy = true ∧
    0x100 ≤ (0x100#10 : HostAddr).toNat ∧ (0x1FF#10 : HostAddr).toNat ≤ 0x1FF ∧
    (pending .setup [.hostWrite 0x000#10 0x55#8]).moves = .hostWrite 0x000#10 0x55#8 :: [] := by decide

theorem test_witness_StartCommandFollowsItsScript :
    (pending .encSend [.startCmd]).moves = .startCmd :: [] ∧ (pending .encSend [.startCmd]).peOp = .none ∧
      (pending .encSend [.startCmd]).cmdPend = some ⟨.encSend, 0x02#8, 0x05#8⟩ ∧
      (pending .txPacket [.startCmd]).cmdPend = some ⟨.txPacket, 0x02#8, 0x05#8⟩ ∧
      (pending .txRaw [.startCmd]).cmdPend = some ⟨.txRaw, 0x02#8, 0x05#8⟩ ∧
      (pending .setup [.startCmd]).cmdPend = some ⟨.setup, 0x02#8, 0x05#8⟩ := by decide

theorem test_witness_OneOperationAtATimeInEitherOrder :
    (receiving .x1 0#8 [.startCmd]).peOp ≠ .none ∧ (pending .txRaw [.startRx]).peOp = .none ∧
      (pending .txRaw [.startRx]).cmdPend = some ⟨.txRaw, 0x02#8, 0x05#8⟩ ∧
      ({ pending .txRaw [.startRx] with ifg := true, ie := true } : State).ifg = true := by decide

theorem test_witness_EncodeObeysItsLengthAndBandLaws :
    (encodeFrame [0x7E#8])[1]? = some 0x7D#8 ∧ 1 + 1 < (encodeFrame [0x7E#8]).length ∧ reserved 0x7D#8 = true := by decide

theorem test_witness_EncoderPutsOneByteAStep : (running .enc .enc [.stx]).peOp = .enc ∧
    (encodeFrame (readBytes (running .enc .enc [.stx]).mem 0x100 (running .enc .enc [.stx]).peLen.toNat))[0]? =
      some 0x7E#8 ∧
    (encodeFrame (readBytes (running .enc .enc [.stx]).mem 0x100 2))[3]? = some 0x7F#8 := by decide

theorem test_witness_EncSendSendsItsEncodedFrame :
    let s := idle 0#8 [.hostWrite 0x000#10 0x01#8, .startCmd, .stx, .stx, .tick]
    s.busy = false ∧ s.peOp = .none ∧ s.argLen.toNat ≤ s.cfg.maxPkt + 1 ∧
      [0x7E#8, 0x7F#8] = encodeFrame (readBytes s.mem 0x100 s.argLen.toNat) ∧
      s.moves = .hostWrite 0x000#10 0x01#8 :: .startCmd :: (List.replicate 2 .stx ++ [.tick]) := by decide

theorem test_witness_TransmitWritesThePacketThenStrobes : (running .txp .t1 [.radio []]).moves = .radio [] :: [] ∧
    (running .txp .t1 [.radio []]).peOp = .txp ∧ (running .txr .t1 [.radio []]).peOp = .txr ∧
    (running .txr .t2 [.radio []]).pePhase = .t2 := by decide

theorem test_witness_TransmitWaitsForTheSignalLevels : (running .txp .t3 [.pe]).moves = .pe :: [] ∧
    (running .txp .t3 [.pe]).pktSig = false ∧ ({ running .txp .t3 [.pe] with pktSig := true } : State).pePhase = .t3 ∧
    (running .txr .t4 [.pe]).pktSig = false ∧ ({ running .txr .t4 [.pe] with pktSig := true } : State).pePhase = .t4 := by
  decide

theorem test_witness_TickCountsOrTimesOut :
    let s : State := { running .txr .t3 [.tick] with cfg := { txWaitLimit := some 2 }, peWait := 1 }
    s.moves = .tick :: [] ∧ s.cfg.txWaitLimit = some 2 ∧ s.peOp = .txr ∧ s.pePhase = .t3 ∧ 2 ≤ s.peWait + 1 ∧
      (running .txr .t4 [.tick]).cfg.txWaitLimit = none ∧ ¬(s.pePhase = .t1 ∨ s.pePhase = .t4) := by decide

theorem test_witness_TicksEndAWaitingTransmit :
    let s : State := { running .txp .t4 [.tick, .tick, .pe] with cfg := { txWaitLimit := some 2 } }
    s.cfg.txWaitLimit = some 2 ∧ s.peOp = .txp ∧ s.pePhase = .t4 ∧ s.peWait < 2 ∧
      s.moves = List.replicate (2 - s.peWait) .tick ++ [.pe] := by decide

/-- The moves of a whole transmit whose CMD write is `v`. -/
def transmitMoves (v : Byte) : List Move :=
  [.hostWrite 0x000#10 v, .startCmd, .radio [], .radio [], .sig true, .pe, .sig false, .pe]

theorem test_witness_TransmitSendsItsPacketAndEnablesReception :
    let s := idle 63#8 (transmitMoves 0x02#8)
    let t := idle 65#8 (transmitMoves 0x03#8)
    s.busy = false ∧ s.peOp = .none ∧ s.argLen.toNat ≤ s.cfg.maxPkt - 1 ∧
      s.moves = [.hostWrite 0x000#10 0x02#8, .startCmd, .radio [], .radio [], .sig true, .pe, .sig false, .pe] ++ [] ∧
      t.busy = false ∧ t.peOp = .none ∧ 1 ≤ t.argLen.toNat ∧ t.argLen.toNat ≤ t.cfg.maxPkt + 1 ∧
      t.moves = [.hostWrite 0x000#10 0x03#8, .startCmd, .radio [], .radio [], .sig true, .pe, .sig false, .pe] ++ [] := by
  decide

theorem test_witness_RxDispatchEntersOnItsTrigger :
    let s : State := { State.reset with ifg := true, ie := true }
    s.peOp = .none ∧ s.ifg = true ∧ s.ie = true ∧ (receiving .x1 0#8 []).peOp ≠ .none ∧ State.reset.ifg = false ∧
      State.reset.ie = false := by decide

theorem test_witness_OccupancyReadDecides : (receiving .x1 0#8 [.radio [0x00#8]]).moves = .radio [0x00#8] :: [] ∧
    (receiving .x1 0#8 []).peOp = .rxd ∧ (receiving .x1 0#8 []).pePhase = .x1 ∧ occCount State.reset.cfg 0x00#8 = 0 ∧
    occCount State.reset.cfg 0x01#8 ≠ 0 := by decide

theorem test_witness_LengthByteDecides : (receiving .x2 0#8 [.radio [0x40#8]]).moves = .radio [0x40#8] :: [] ∧
    (receiving .x2 0#8 []).peOp = .rxd ∧ (receiving .x2 0#8 []).pePhase = .x2 ∧
    (0x40#8 : Byte).toNat ≤ (receiving .x2 0#8 []).cfg.maxPkt ∧ (receiving .x2 0#8 []).cfg.maxPkt < (0x41#8 : Byte).toNat := by
  decide

theorem test_witness_PayloadBurstFillsRxbuf :
    let s := receiving .x3 2#8 [.radio [0x05#8, 0xAA#8]]
    Memory.wf s.mem = true ∧ s.moves = .radio [0x05#8, 0xAA#8] :: [] ∧ s.peOp = .rxd ∧ s.pePhase = .x3 ∧
      [0x05#8, 0xAA#8].length = s.peL.toNat := by decide

theorem test_witness_StatusBurstGatesDelivery :
    let s := receiving .x4 3#8 [.radio [0x2A#8, 0x80#8]]
    s.moves = .radio [0x2A#8, 0x80#8] :: [] ∧ s.peOp = .rxd ∧ s.pePhase = .x4 ∧ (0x80#8 : Byte).getLsbD 7 = true ∧
      (0x7F#8 : Byte).getLsbD 7 = false := by decide

theorem test_witness_OversizeFlushes : (receiving .x5 0x41#8 [.radio []]).moves = .radio [] :: [] ∧
    (receiving .x5 0x41#8 [.radio []]).peOp = .rxd ∧ (receiving .x5 0x41#8 [.radio []]).pePhase = .x5 := by decide

theorem test_witness_ReturnZeroesRxbuf : (receiving .x7 0#8 [.pe]).moves = .pe :: [] ∧
    (receiving .x7 0#8 [.pe]).peOp = .rxd ∧ (receiving .x7 0#8 [.pe]).pePhase = .x7 := by decide

theorem test_witness_GoodPacketIsDelivered :
    let s : State := { State.reset with ifg := true, ie := true, moves := [.startRx, .radio [0x06#8], .radio [0x01#8],
      .radio [0x05#8], .radio [0x2A#8, 0x85#8], .hostWrite 0x004#10 0x06#8, .pe] }
    Memory.wf s.mem = true ∧ s.peOp = .none ∧ s.ifg = true ∧ s.ie = true ∧ occCount s.cfg 0x06#8 ≠ 0 ∧
      (0x01#8 : Byte).toNat ≤ s.cfg.maxPkt ∧ [0x05#8].length = (0x01#8 : Byte).toNat ∧ (0x85#8 : Byte).getLsbD 7 = true ∧
      s.moves = [.startRx, .radio [0x06#8], .radio [0x01#8], .radio [0x05#8], .radio [0x2A#8, 0x85#8],
        .hostWrite 0x004#10 (if true then 0x06#8 else 0x02#8), .pe] ++ [] := by decide

theorem test_witness_FailedReceptionsDeliverNothing :
    let s : State := { State.reset with ifg := true, ie := true, moves := [.startRx, .radio [0x06#8], .radio [0x00#8],
      .radio [], .radio [0x2A#8, 0x05#8], .pe] }
    let t : State := { s with moves := [.startRx, .radio [0x06#8], .radio [0x41#8], .radio [], .pe] }
    s.peOp = .none ∧ s.ifg = true ∧ s.ie = true ∧ occCount s.cfg 0x06#8 ≠ 0 ∧ (0x00#8 : Byte).toNat ≤ s.cfg.maxPkt ∧
      ([] : List Byte).length = (0x00#8 : Byte).toNat ∧ (0x05#8 : Byte).getLsbD 7 = false ∧
      t.cfg.maxPkt < (0x41#8 : Byte).toNat ∧
      t.moves = [.startRx, .radio [0x06#8], .radio [0x41#8], .radio [], .pe] ++ [] := by decide

theorem test_witness_PacketIsOfferedOnlyByTheCrcGate :
    TakesMove (receiving .x4 1#8 [.radio [0x2A#8, 0x80#8]]) (.radio [0x2A#8, 0x80#8])
        (radioStep [0x2A#8, 0x80#8] (receiving .x4 1#8 [])) ∧
      (radioStep [0x2A#8, 0x80#8] (receiving .x4 1#8 [])).pktValid = true ∧
      TakesMove (offering [.hostWrite 0x004#10 0x02#8]) (.hostWrite 0x004#10 0x02#8) (ackPacketPart false (offering [])) ∧
      (ackPacketPart false (offering [])).pktValid = false :=
  ⟨⟨rfl, .inl ⟨[], rfl, rfl⟩⟩, rfl, ⟨rfl, .inl ⟨[], rfl, rfl⟩⟩, rfl⟩

theorem test_witness_acknowledgements : (offering []).frmValid = true ∧ (offering []).pktValid = true ∧
    State.reset.frmValid = false ∧ State.reset.pktValid = false ∧ (0xF8#8 : Byte).getLsbD 0 = false ∧
    (0xFC#8 : Byte).getLsbD 1 = false ∧ (idle 0#8 [.hostWrite 0x004#10 0x04#8]).moves = .hostWrite 0x004#10 0x04#8 :: [] := by
  decide

theorem test_witness_FeedDispatchesByStateAndByte : (decoding .idle 0#8 0x7E#8).srx = some 0x7E#8 ∧
    (decoding .idle 0#8 0x7E#8).frmValid = false ∧ State.reset.srx ≠ some 0x7E#8 ∧ (offering []).frmValid = true := by decide

theorem test_witness_StartAndEscapeTransitions : (decoding .idle 0#8 0x7E#8).frmValid = false ∧
    (decoding .idle 0#8 0x7E#8).srx = some 0x7E#8 ∧ (decoding .idle 0#8 0x7E#8).decState = .idle ∧
    (decoding .idle 0#8 0x7D#8).srx = some 0x7D#8 ∧ 0x7D#8 ≠ 0x7E#8 ∧
    (decoding .receiving 1#8 0x7D#8).decState = .receiving ∧ (decoding .receiving 1#8 0x7E#8).srx = some 0x7E#8 := by decide

theorem test_witness_EndByteCompletesTheFrame : (decoding .receiving 4#8 0x7F#8).srx = some 0x7F#8 ∧
    (decoding .receiving 4#8 0x7F#8).frmValid = false ∧ (decoding .receiving 4#8 0x7F#8).decState = .receiving := by decide

theorem test_witness_DataByteIsAppendedOrOverflows : Memory.wf (decoding .receiving 3#8 0x80#8).mem = true ∧
    (decoding .receiving 3#8 0x80#8).srx = some 0x80#8 ∧ (decoding .receiving 3#8 0x80#8).frmValid = false ∧
    (decoding .receiving 3#8 0x80#8).decState = .receiving ∧ 0x80#8 ≠ 0x7D#8 ∧ 0x80#8 ≠ 0x7E#8 ∧ 0x80#8 ≠ 0x7F#8 ∧
    (decoding .receiving 3#8 0x80#8).decIdx.toNat < (decoding .receiving 3#8 0x80#8).cfg.maxPkt ∧
    (decoding .receiving 4#8 0x80#8).decIdx.toNat = (decoding .receiving 4#8 0x80#8).cfg.maxPkt := by decide

theorem test_witness_EscapedByteIsAppendedOrOverflows : Memory.wf (decoding .escapePending 3#8 0x7E#8).mem = true ∧
    (decoding .escapePending 3#8 0x7E#8).srx = some 0x7E#8 ∧ (decoding .escapePending 3#8 0x7E#8).frmValid = false ∧
    (decoding .escapePending 3#8 0x7E#8).decState = .escapePending ∧
    (decoding .escapePending 3#8 0x7E#8).decIdx.toNat < (decoding .escapePending 3#8 0x7E#8).cfg.maxPkt ∧
    (decoding .escapePending 4#8 0x7E#8).decIdx.toNat = (decoding .escapePending 4#8 0x7E#8).cfg.maxPkt := by decide

theorem test_witness_EncodedBodyDecodesToItself :
    let s : State := { State.reset with cfg := { maxPkt := 2 }, moves := feedMoves (encodeFrame [0x41#8, 0x7E#8]) }
    s.cfg.Ok ∧ Memory.wf s.mem = true ∧ s.frmValid = false ∧ s.decState = .idle ∧ s.srx = none ∧
      [0x41#8, 0x7E#8].length ≤ s.cfg.maxPkt ∧ s.moves = feedMoves (encodeFrame [0x41#8, 0x7E#8]) ++ [] := by decide

theorem test_witness_ResynchronisationDeliversOneFrame :
    let s : State := { State.reset with
      cfg := { maxPkt := 1 }, moves := feedMoves [0x7E#8, 0x41#8, 0x7E#8, 0x42#8, 0x7F#8] }
    s.cfg.Ok ∧ Memory.wf s.mem = true ∧ s.frmValid = false ∧ s.decState ≠ .escapePending ∧ s.srx = none ∧
      s.moves = feedMoves [0x7E#8, 0x41#8, 0x7E#8, 0x42#8, 0x7F#8] ++ [] := by decide

theorem test_witness_OverlongFrameIsDiscarded :
    let s : State := { State.reset with
      cfg := { maxPkt := 1 }, moves := feedMoves ([0x7E#8] ++ [0x41#8, 0x42#8] ++ [0x7F#8]) }
    s.cfg.Ok ∧ s.frmValid = false ∧ s.decState ≠ .escapePending ∧ s.srx = none ∧
      (∀ b ∈ [0x41#8, 0x42#8], reserved b = false) ∧ s.cfg.maxPkt < [0x41#8, 0x42#8].length ∧
      s.moves = feedMoves ([0x7E#8] ++ [0x41#8, 0x42#8] ++ [0x7F#8]) ++ [] := by decide

theorem test_witness_InputsOfTheEnvironment : (idle 0#8 [.srx 0x7E#8]).srx = none ∧
    (decoding .idle 0#8 0x41#8).srx ≠ none ∧ (offering [.feed]).frmValid = true ∧ (offering [.feed]).moves = .feed :: [] ∧
    ({ idle 0#8 [.sig false] with pktSig := true } : State).moves = .sig false :: [] ∧
    ¬((idle 0#8 [.sig false]).pktSig = true ∧ false = false) := by decide

theorem test_witness_EverythingReadsZeroAfterReset : exec .reset (offering []) = .next (offering []).resetBlock := by rfl

theorem test_witness_HostReadsFollowTheAddressMap :
    let s := offering [.hostRead 0x240#10]
    s.cfg.Ok ∧ s.moves = .hostRead 0x240#10 :: [] ∧ 0x00C ≤ (0x00C#10 : HostAddr).toNat ∧
      (0x0FF#10 : HostAddr).toNat ≤ 0x0FF ∧ (0x140#10 : HostAddr).toNat = 0x100 + 64 ∧
      (0x141#10 : HostAddr).toNat = 0x100 + 65 ∧ (0x23F#10 : HostAddr).toNat = 0x200 + 63 ∧
      (0x3FF#10 : HostAddr).toNat = 0x300 + 0xFF := by decide

theorem test_witness_HostWritesStoreOrAreIgnored :
    let s := idle 0#8 [.hostWrite 0x140#10 0x55#8]
    s.cfg.Ok ∧ Memory.wf s.mem = true ∧ s.moves = .hostWrite 0x140#10 0x55#8 :: [] ∧ s.busy = false ∧
      0x100 ≤ (0x100#10 : HostAddr).toNat ∧ (0x140#10 : HostAddr).toNat < 0x100 + (s.cfg.maxPkt + 1) ∧
      0x100 + (s.cfg.maxPkt + 1) ≤ (0x141#10 : HostAddr).toNat ∧ (0x1FF#10 : HostAddr).toNat ≤ 0x1FF ∧
      0x005 ≤ (0x005#10 : HostAddr).toNat ∧ 0x200 ≤ (0x200#10 : HostAddr).toNat := by decide

/-- A frame and a packet on offer are a legal state. -/
theorem offering_is_legal (ms : List Move) : (offering ms).Inv where
  cfg := (by decide : State.reset.cfg.Ok)
  mem := ⟨rfl, by
    intro c hc
    simp only [offering, List.mem_cons, List.not_mem_nil, or_false] at hc
    rcases hc with rfl | rfl
    · exact .inr (.inl (by decide : 0x200 ≤ 0x200 ∧ 0x200 < 0x200 + 64))
    · exact .inr (.inr (by decide : 0x300 ≤ 0x300 ∧ 0x300 < 0x300 + 64))⟩
  decoder := ⟨fun _ => rfl, (by decide : (0x00#8 : Byte).toNat ≤ 64), (by decide : (0x01#8 : Byte).toNat ≤ 64)⟩
  engine := by constructor <;> simp [offering, State.reset, phaseOf, runsCommand, transmitting]
  receive := by constructor <;> simp [offering, State.reset, crcOk]

theorem test_witness_StepKeepsTheInvariant : (offering [.hostWrite 0x004#10 0x07#8]).Inv ∧
    step (offering [.hostWrite 0x004#10 0x07#8]) = .next (ackPacketPart true (ackFramePart (offering []))) :=
  ⟨offering_is_legal _, rfl⟩

theorem test_witness_DeliveriesStandStillWhileOnOffer : (offering [.sig true]).Inv ∧
    step (offering [.sig true]) = .next (sigStep true (offering [])) ∧ (offering [.sig true]).frmValid = true ∧
    (sigStep true (offering [])).frmValid = true ∧ (offering [.sig true]).pktValid = true ∧
    (sigStep true (offering [])).pktValid = true :=
  ⟨offering_is_legal _, rfl, rfl, rfl, rfl, rfl⟩

theorem test_witness_FeedCommutesWithThePacketEngine :
    let s : State := { running .enc .enc [.stx, .feed] with srx := some 0x41#8 }
    s.cfg.Ok ∧ Memory.wf s.mem = true ∧ isPacketEngineMove .stx = true ∧ s.moves = .stx :: .feed :: [] := by decide

theorem test_witness_OperandsChangeOnlyByHostWritesWhileIdle :
    TakesMove (idle 0#8 [.hostWrite 0x001#10 0x42#8]) (.hostWrite 0x001#10 0x42#8) (idle 0x42#8 []) ∧
      Move.hostWrite 0x001#10 0x42#8 ≠ .reset ∧ (idle 0x42#8 []).argLen ≠ (idle 0#8 []).argLen ∧
      TakesMove (idle 0#8 [.hostWrite 0x002#10 0x05#8]) (.hostWrite 0x002#10 0x05#8)
        { idle 0#8 [] with argDest := 0x05#8 } ∧
      TakesMove (idle 0#8 [.hostWrite 0x140#10 0x55#8]) (.hostWrite 0x140#10 0x55#8)
        { idle 0#8 [] with mem := [(0x140, 0x55#8)] } ∧
      readByte [(0x140, 0x55#8)] (0x100 + 0x40) ≠ readByte [] (0x100 + 0x40) :=
  ⟨⟨rfl, .inl ⟨[], rfl, rfl⟩⟩, by decide, by decide, ⟨rfl, .inl ⟨[], rfl, rfl⟩⟩, ⟨rfl, .inl ⟨[], rfl, rfl⟩⟩, by decide⟩

theorem test_witness_BusyAndErrorHaveOnlyTheirWriters :
    TakesMove (idle 0#8 [.hostWrite 0x000#10 0x04#8]) (.hostWrite 0x000#10 0x04#8) (offerCommand 0x04#8 (idle 0#8 [])) ∧
      (offerCommand 0x04#8 (idle 0#8 [])).busy = true ∧
      TakesMove (pending .setup [.startCmd]) .startCmd (startCommand (pending .setup [])) ∧
      (startCommand (pending .setup [])).busy = false ∧
      TakesMove (idle 0#8 [.hostWrite 0x000#10 0x05#8]) (.hostWrite 0x000#10 0x05#8) (offerCommand 0x05#8 (idle 0#8 [])) ∧
      (offerCommand 0x05#8 (idle 0#8 [])).err ≠ (idle 0#8 []).err :=
  ⟨⟨rfl, .inl ⟨[], rfl, rfl⟩⟩, rfl, ⟨rfl, .inl ⟨[], rfl, rfl⟩⟩, rfl, ⟨rfl, .inl ⟨[], rfl, rfl⟩⟩, by decide⟩

theorem test_witness_EnableBitHasOnlyItsWriters :
    TakesMove (pending .setup [.startCmd]) .startCmd (startCommand (pending .setup [])) ∧
      (startCommand (pending .setup [])).ie = true ∧
      TakesMove { pending .txRaw [.startCmd] with ie := true } .startCmd
        (startCommand { pending .txRaw [] with ie := true }) ∧
      (startCommand { pending .txRaw [] with ie := true }).ie = false :=
  ⟨⟨rfl, .inl ⟨[], rfl, rfl⟩⟩, rfl, ⟨rfl, .inl ⟨[], rfl, rfl⟩⟩, rfl⟩

theorem test_witness_EdgeLatchHasOnlyItsWriters :
    TakesMove { idle 0#8 [.sig false] with pktSig := true } (.sig false) (sigStep false { idle 0#8 [] with pktSig := true }) ∧
      (sigStep false { idle 0#8 [] with pktSig := true }).ifg = true ∧
      TakesMove (receiving .x7 0#8 [.pe]) .pe (peStep (receiving .x7 0#8 [])) ∧
      (peStep (receiving .x7 0#8 [])).ifg = false :=
  ⟨⟨rfl, .inl ⟨[], rfl, rfl⟩⟩, rfl, ⟨rfl, .inl ⟨[], rfl, rfl⟩⟩, rfl⟩

theorem test_witness_DecoderHasOnlyItsWriters : (offering []).cfg.Ok ∧
    TakesMove (offering [.hostWrite 0x004#10 0x01#8]) (.hostWrite 0x004#10 0x01#8) (ackFramePart (offering [])) ∧
    Move.hostWrite 0x004#10 0x01#8 ≠ .feed ∧ Move.hostWrite 0x004#10 0x01#8 ≠ .reset ∧
    (ackFramePart (offering [])).frmValid = false :=
  ⟨by decide, ⟨rfl, .inl ⟨[], rfl, rfl⟩⟩, by decide, by decide, rfl⟩

theorem test_witness_QuiescentStateHasNoEngineStep : Quiescent (idle 0#8 [.stx]) ∧ isEngineMove .stx = true ∧
    (idle 0#8 [.stx]).moves = .stx :: [] ∧ Quiescent (idle 0#8 []) ∧ (idle 0#8 []).moves = [] := by
  simp [Quiescent, idle, State.reset, isEngineMove]

end Sys2Proof.Tests
end

section
/-! CMD writes (40_sequencer.md R102, R103): the OPCODE map and the length bounds as the spec's numbers, one equation
per outcome of an offered command, and the acceptance rule assembled from them. -/

namespace Sys2Proof.Machine

/-- The OPCODE map has the spec's four values and no other (R82, R83). -/
theorem opcodeOf_eq_some_iff {v : Byte} {op : Opcode} :
    opcodeOf v = some op ↔
      v = 0x01#8 ∧ op = .encSend ∨ v = 0x02#8 ∧ op = .txPacket ∨ v = 0x03#8 ∧ op = .txRaw ∨ v = 0x04#8 ∧ op = .setup := by
  unfold opcodeOf
  split_ifs <;> simp_all [eq_comm]

theorem opcodeOf_eq_none_iff {v : Byte} :
    opcodeOf v = none ↔ v ≠ 0x01#8 ∧ v ≠ 0x02#8 ∧ v ≠ 0x03#8 ∧ v ≠ 0x04#8 := by
  unfold opcodeOf
  split_ifs <;> simp_all

/-- The bounds of `LenOk` (R103), each under its opcode. -/
theorem lenOk_iff {c : Config} {op : Opcode} {len : Byte} :
    lenOk c op len = true ↔
      (op = .encSend → len.toNat ≤ c.maxPkt + 1) ∧ (op = .txPacket → len.toNat ≤ c.maxPkt - 1) ∧
        (op = .txRaw → 1 ≤ len.toNat ∧ len.toNat ≤ c.maxPkt + 1) := by
  cases op <;> simp [lenOk]

theorem offerCommand_of_busy {s : State} (v : Byte) (hb : s.busy = true) : offerCommand v s = s := by
  simp [offerCommand, hb]

theorem offerCommand_of_illegal {s : State} {v : Byte} (hb : s.busy = false) (ho : opcodeOf v = none) :
    offerCommand v s = { s with err := .badOpcode } := by
  simp [offerCommand, hb, ho, State.raise]

theorem offerCommand_of_badLen {s : State} {v : Byte} {op : Opcode} (hb : s.busy = false) (ho : opcodeOf v = some op)
    (hl : ¬lenOk s.cfg op s.argLen = true) : offerCommand v s = { s with err := .badLen } := by
  simp [offerCommand, hb, ho, hl, State.raise]

theorem offerCommand_of_legal {s : State} {v : Byte} {op : Opcode} (hb : s.busy = false) (ho : opcodeOf v = some op)
    (hl : lenOk s.cfg op s.argLen = true) :
    offerCommand v s = { s with err := .none, busy := true, cmdPend := some ⟨op, s.argLen, s.argDest⟩ } := by
  simp [offerCommand, hb, ho, hl, State.raise]

/-- A queued CMD write is a step that offers the command on the state without it. -/
theorem step_command {s : State} {v : Byte} {ms : List Move} (h : s.moves = .hostWrite 0x000#10 v :: ms) :
    step s = .next (offerCommand v { s with moves := ms }) :=
  (step_queued h).trans (runMove_command v _)

/-- Settles O7: one case per outcome of R102, each by its equation of `offerCommand`. -/
theorem commandWriteFollowsTheAcceptanceRule : Obligations.CommandWriteFollowsTheAcceptanceRule := by
  intro s v ms hm
  rw [step_command hm]
  refine ⟨fun hb => ?ignored, fun hb h1 h2 h3 h4 => ?badOpcode, fun op hop hb => ?legalOpcode⟩
  case ignored => exact congrArg _ (offerCommand_of_busy v hb)
  case badOpcode => exact congrArg _ (offerCommand_of_illegal hb (opcodeOf_eq_none_iff.mpr ⟨h1, h2, h3, h4⟩))
  case legalOpcode =>
    have ho : opcodeOf v = some op := opcodeOf_eq_some_iff.mpr hop
    split_ifs with hl
    · exact congrArg _ (offerCommand_of_legal hb ho (lenOk_iff.mpr hl))
    · exact congrArg _ (offerCommand_of_badLen hb ho (mt lenOk_iff.mp hl))

end Sys2Proof.Machine
end

section
/-! The radio transactions of a transmit (41_packet_tx.md R135, R136): what PE offers to RADIO at T1 and T2, what taking
it does, and the two steps assembled from them. -/

namespace Sys2Proof.Machine

/-- A queued answer of RADIO is a step that answers the state without it. -/
theorem step_radio {s : State} {data : List Byte} {ms : List Move} (h : s.moves = .radio data :: ms) :
    step s = .next (radioStep data { s with moves := ms }) :=
  (step_queued h).trans (runMove_radio data _)

/-- RADIO takes an offered transaction with as many bytes as it asks for (R66). -/
theorem radioStep_of_offer {s : State} {r : RadioReq} {data : List Byte} (ho : radioOffer s = some r)
    (hl : data.length = r.count) : radioStep data s = radioAdvance data (s.emit (r.event data)) := by
  simp [radioStep, ho, hl]

theorem transmitting_iff {s : State} : transmitting s = true ↔ s.peOp = .txp ∨ s.peOp = .txr := decide_eq_true_iff

/-- In a transmit of either kind PE offers the transactions of T1 and T2. -/
theorem radioOffer_of_transmitting {s : State} (ht : transmitting s = true) : radioOffer s = txOffer s := by
  rcases transmitting_iff.mp ht with hop | hop <;> simp [radioOffer, hop]

theorem radioAdvance_of_transmitting {s : State} (data : List Byte) (ht : transmitting s = true) :
    radioAdvance data s = txAdvance s := by
  rcases transmitting_iff.mp ht with hop | hop <;> simp [radioAdvance, hop]

theorem txOffer_t1 {s : State} (hp : s.pePhase = .t1) :
    txOffer s = some (.writeBurst s.cfg.aTxFifo (txBytes s)) := by
  simp [txOffer, hp]

theorem txOffer_t2 {s : State} (hp : s.pePhase = .t2) : txOffer s = some (.strobe s.cfg.cmdStx) := by
  simp [txOffer, hp]

theorem txAdvance_t1 {s : State} (hp : s.pePhase = .t1) : txAdvance s = s.toPhase .t2 := by
  simp [txAdvance, hp]

theorem txAdvance_t2 {s : State} (hp : s.pePhase = .t2) : txAdvance s = s.toPhase .t3 := by
  simp [txAdvance, hp]

/-- In a transmit, the transaction that RADIO takes is recorded and the handshake advances (R101). -/
theorem radioStep_transmit {s : State} {r : RadioReq} (ht : transmitting s = true) (ho : txOffer s = some r)
    (hl : r.count = 0) : radioStep [] s = txAdvance (s.emit (r.event [])) :=
  calc radioStep [] s
    _ = radioAdvance [] (s.emit (r.event [])) :=
      radioStep_of_offer (data := []) ((radioOffer_of_transmitting ht).trans ho) hl.symm
    _ = txAdvance (s.emit (r.event [])) := radioAdvance_of_transmitting [] ht

/-- T1 writes the packet in one burst (R135). -/
theorem radioStep_t1 {s : State} {bytes : List Byte} (ht : transmitting s = true) (hp : s.pePhase = .t1)
    (hb : txBytes s = bytes) : radioStep [] s = (s.emit (.radioWB s.cfg.aTxFifo bytes)).toPhase .t2 := by
  subst hb
  exact (radioStep_transmit ht (txOffer_t1 hp) rfl).trans (txAdvance_t1 hp)

/-- T2 strobes CMD_STX (R136). -/
theorem radioStep_t2 {s : State} (ht : transmitting s = true) (hp : s.pePhase = .t2) :
    radioStep [] s = (s.emit (.radioST s.cfg.cmdStx)).toPhase .t3 :=
  (radioStep_transmit ht (txOffer_t2 hp) rfl).trans (txAdvance_t2 hp)

/-- TX_PACKET sends the composed packet (R130, R131). -/
theorem txBytes_of_txp {s : State} (hop : s.peOp = .txp) :
    txBytes s = [s.peLen + 0x01#8, s.peDest] ++ readBytes s.mem 0x100 s.peLen.toNat :=
  if_pos hop

/-- TX_RAW sends the bytes of SRC as they are (R132). -/
theorem txBytes_of_txr {s : State} (hop : s.peOp = .txr) : txBytes s = readBytes s.mem 0x100 s.peLen.toNat :=
  if_neg (by simp [hop])

/-- Settles O17: the burst of T1 with the bytes of each kind of transmit, and the strobe T2 has in common. -/
theorem transmitWritesThePacketThenStrobes : Obligations.TransmitWritesThePacketThenStrobes := by
  intro s ms hm
  rw [step_radio hm]
  refine ⟨fun hop hp => ?packetBurst, fun hop hp => ?rawBurst, fun hop hp => ?strobe⟩
  case packetBurst => exact congrArg _ (radioStep_t1 (transmitting_iff.mpr (.inl hop)) hp (txBytes_of_txp hop))
  case rawBurst => exact congrArg _ (radioStep_t1 (transmitting_iff.mpr (.inr hop)) hp (txBytes_of_txr hop))
  case strobe => exact congrArg _ (radioStep_t2 (transmitting_iff.mpr hop) hp)

end Sys2Proof.Machine
end

section
/-! The steps X1 to X5 of RX_DISPATCH (42_packet_rx.md R154 to R158): the transaction PE offers to RADIO in each phase,
what the answer does, and the five steps assembled from them. -/

namespace Sys2Proof.Machine

/-! ### What PE offers -/

theorem rxOffer_x1 {s : State} (hp : s.pePhase = .x1) : rxOffer s = some (.readStatus s.cfg.aRxBytes) := by
  simp [rxOffer, hp]

theorem rxOffer_x2 {s : State} (hp : s.pePhase = .x2) : rxOffer s = some (.readReg s.cfg.aRxFifo) := by
  simp [rxOffer, hp]

theorem rxOffer_x3 {s : State} (hp : s.pePhase = .x3) : rxOffer s = some (.readBurst s.cfg.aRxFifo s.peL.toNat) := by
  simp [rxOffer, hp]

theorem rxOffer_x4 {s : State} (hp : s.pePhase = .x4) : rxOffer s = some (.readBurst s.cfg.aRxFifo 2) := by
  simp [rxOffer, hp]

theorem rxOffer_x5 {s : State} (hp : s.pePhase = .x5) : rxOffer s = some (.strobe s.cfg.cmdSfrx) := by
  simp [rxOffer, hp]

/-! ### What the answer does -/

theorem rxAdvance_x1 {s : State} (v : Byte) (hp : s.pePhase = .x1) : rxAdvance [v] s = stepX1 v s := by
  simp [rxAdvance, hp]

theorem rxAdvance_x2 {s : State} (l : Byte) (hp : s.pePhase = .x2) : rxAdvance [l] s = stepX2 l s := by
  simp [rxAdvance, hp]

theorem rxAdvance_x3 {s : State} (data : List Byte) (hp : s.pePhase = .x3) : rxAdvance data s = stepX3 data s := by
  simp [rxAdvance, hp]

theorem rxAdvance_x4 {s : State} (r q : Byte) (hp : s.pePhase = .x4) : rxAdvance [r, q] s = stepX4 r q s := by
  simp [rxAdvance, hp]

theorem rxAdvance_x5 {s : State} (data : List Byte) (hp : s.pePhase = .x5) : rxAdvance data s = stepX5 s := by
  simp [rxAdvance, hp]

/-! ### The branches of X1, X2 and X4 -/

theorem stepX1_of_empty {s : State} {v : Byte} (h : occCount s.cfg v = 0) :
    stepX1 v s =
      { s with
        rxResult := ⟨false, false, false⟩, rxLen := 0x00#8, rxRssi := 0x00#8, rxLqiCrc := 0x00#8
        pePhase := .x7 } :=
  if_pos h

theorem stepX1_of_available {s : State} {v : Byte} (h : occCount s.cfg v ≠ 0) : stepX1 v s = s.toPhase .x2 :=
  if_neg h

theorem stepX2_of_fits {s : State} {l : Byte} (h : l.toNat ≤ s.cfg.maxPkt) :
    stepX2 l s = { s with peL := l, pePhase := .x3 } := by
  simp [stepX2, h]

theorem stepX2_of_oversize {s : State} {l : Byte} (h : s.cfg.maxPkt < l.toNat) :
    stepX2 l s = { s with peL := l, pePhase := .x5 } := by
  simp [stepX2, h]

/-- A good CRC puts the packet on offer (R157). -/
theorem stepX4_of_crcOk {s : State} (r : Byte) {q : Byte} (h : crcOk q = true) :
    stepX4 r q s =
      { s with
        rxRssi := r, rxLqiCrc := q, rxLen := s.peL, rxResult := ⟨true, true, false⟩, pktValid := true
        pePhase := .x6 } := by
  simp [stepX4, h]

/-- A bad CRC leaves PKT_VALID as it is and returns (R157). -/
theorem stepX4_of_crcBad {s : State} (r : Byte) {q : Byte} (h : crcOk q = false) :
    stepX4 r q s =
      { s with rxRssi := r, rxLqiCrc := q, rxLen := s.peL, rxResult := ⟨true, false, false⟩, pePhase := .x7 } := by
  simp [stepX4, h]

/-! ### The transactions of a reception -/

/-- In RX_DISPATCH, an answer of the length asked for is recorded and the reception advances (R101). -/
theorem radioStep_receive {s : State} {r : RadioReq} {data : List Byte} (hop : s.peOp = .rxd) (ho : rxOffer s = some r)
    (hl : data.length = r.count) : radioStep data s = rxAdvance data (s.emit (r.event data)) := by
  have hoffer : radioOffer s = some r := by simpa [radioOffer, hop] using ho
  calc radioStep data s
    _ = radioAdvance data (s.emit (r.event data)) := radioStep_of_offer hoffer hl
    _ = rxAdvance data (s.emit (r.event data)) := if_pos hop

/-- X1 reads the occupancy status (R154). -/
theorem radioStep_x1 {s : State} (v : Byte) (hop : s.peOp = .rxd) (hp : s.pePhase = .x1) :
    radioStep [v] s = stepX1 v (s.emit (.radioRS s.cfg.aRxBytes v)) :=
  (radioStep_receive hop (rxOffer_x1 hp) rfl).trans (rxAdvance_x1 v hp)

/-- X2 reads the length byte (R155). -/
theorem radioStep_x2 {s : State} (l : Byte) (hop : s.peOp = .rxd) (hp : s.pePhase = .x2) :
    radioStep [l] s = stepX2 l (s.emit (.radioRR s.cfg.aRxFifo l)) :=
  (radioStep_receive hop (rxOffer_x2 hp) rfl).trans (rxAdvance_x2 l hp)

/-- X3 reads pe_L bytes in one burst, also when there are none (R156). -/
theorem radioStep_x3 {s : State} {data : List Byte} (hop : s.peOp = .rxd) (hp : s.pePhase = .x3)
    (hl : data.length = s.peL.toNat) :
    radioStep data s = stepX3 data (s.emit (.radioRB s.cfg.aRxFifo s.peL.toNat data)) :=
  (radioStep_receive hop (rxOffer_x3 hp) hl).trans (rxAdvance_x3 data hp)

/-- X4 reads the two status bytes in one burst (R157). -/
theorem radioStep_x4 {s : State} (r q : Byte) (hop : s.peOp = .rxd) (hp : s.pePhase = .x4) :
    radioStep [r, q] s = stepX4 r q (s.emit (.radioRB s.cfg.aRxFifo 2 [r, q])) :=
  (radioStep_receive hop (rxOffer_x4 hp) rfl).trans (rxAdvance_x4 r q hp)

/-- X5 strobes CMD_SFRX (R158). -/
theorem radioStep_x5 {s : State} (hop : s.peOp = .rxd) (hp : s.pePhase = .x5) :
    radioStep [] s = stepX5 (s.emit (.radioST s.cfg.cmdSfrx)) :=
  (radioStep_receive hop (rxOffer_x5 hp) rfl).trans (rxAdvance_x5 [] hp)

/-! ### The statements -/

/-- Settles O25: the memory after X3 is `writeBytes` at RXBUF, whose reads inside and outside the window are known. -/
theorem payloadBurstFillsRxbuf : Obligations.PayloadBurstFillsRxbuf := by
  intro s data ms hwf hm hop hp hl
  refine ⟨writeBytes s.mem 0x200 data, ?next, fun i hi => ?inside, fun a ha => ?outside⟩
  case next => exact (step_radio hm).trans (congrArg _ (radioStep_x3 hop hp hl))
  case inside => exact readByte_writeBytes_inside 0x200 data hwf hi
  case outside => exact readByte_writeBytes_outside s.mem 0x200 data (hl.symm ▸ ha)

/-- Settles O23: X1's two branches, by whether bytes are available. -/
theorem occupancyReadDecides : Obligations.OccupancyReadDecides := by
  intro s v ms hm hop hp
  rw [step_radio hm, radioStep_x1 (s := { s with moves := ms }) v hop hp]
  refine ⟨fun hz => ?empty, fun hz => ?available⟩
  case empty => exact congrArg _ (stepX1_of_empty hz)
  case available => exact congrArg _ (stepX1_of_available hz)

/-- Settles O24: X2's two branches, which meet at MAX_PKT. -/
theorem lengthByteDecides : Obligations.LengthByteDecides := by
  intro s l ms hm hop hp
  rw [step_radio hm, radioStep_x2 (s := { s with moves := ms }) l hop hp]
  refine ⟨fun hl => ?fits, fun hl => ?oversize⟩
  case fits => exact congrArg _ (stepX2_of_fits hl)
  case oversize => exact congrArg _ (stepX2_of_oversize hl)

/-- Settles O26: X4's two branches, by `CrcOk`, which is bit 7 of the second status byte (R150). -/
theorem statusBurstGatesDelivery : Obligations.StatusBurstGatesDelivery := by
  intro s r q ms hm hop hp
  rw [step_radio hm, radioStep_x4 (s := { s with moves := ms }) r q hop hp]
  refine ⟨fun hq => ?delivers, fun hq => ?returns⟩
  case delivers => exact congrArg _ (stepX4_of_crcOk r hq)
  case returns => exact congrArg _ (stepX4_of_crcBad r hq)

/-- Settles O27: X5 is the flush strobe followed by the oversize outcome. -/
theorem oversizeFlushes : Obligations.OversizeFlushes := by
  intro s ms hm hop hp
  exact (step_radio hm).trans (congrArg _ (radioStep_x5 hop hp))

end Sys2Proof.Machine
end

section
/-! The laws of Encode (43_serial_framer.md R180): its length, and where reserved values occur in it. -/

namespace Sys2Proof.Machine

/-! ### The reserved band -/

/-- The band is the three framing bytes (R11, R19). -/
theorem reserved_iff {b : Byte} : reserved b = true ↔ b = 0x7D#8 ∨ b = 0x7E#8 ∨ b = 0x7F#8 := by
  simp only [reserved, decide_eq_true_eq, ← BitVec.toNat_inj, BitVec.toNat_ofNat]
  omega

theorem reserved_eq_false_of_ne {b : Byte} (h1 : b ≠ 0x7D#8) (h2 : b ≠ 0x7E#8) (h3 : b ≠ 0x7F#8) :
    reserved b = false := by
  simpa [h1, h2, h3] using (reserved_iff (b := b)).not

/-- MASK maps the band onto 0x5D..0x5F. -/
theorem masked_of_reserved {b : Byte} (h : reserved b = true) :
    b ^^^ escMask = 0x5D#8 ∨ b ^^^ escMask = 0x5E#8 ∨ b ^^^ escMask = 0x5F#8 := by
  rcases reserved_iff.mp h with rfl | rfl | rfl <;> decide

theorem reserved_masked {b : Byte} (h : reserved b = true) : reserved (b ^^^ escMask) = false := by
  rcases masked_of_reserved h with hb | hb | hb <;> rw [hb] <;> decide

/-! ### The escaped body -/

theorem escape_of_reserved {b : Byte} (h : reserved b = true) : escape b = [escByte, b ^^^ escMask] := if_pos h

theorem escape_of_plain {b : Byte} (h : reserved b = false) : escape b = [b] := if_neg (by simp [h])

theorem length_flatMap_escape (body : List Byte) :
    (body.flatMap escape).length = body.length + body.countP reserved := by
  induction body with
  | nil => rfl
  | cons x xs ih =>
    rw [List.flatMap_cons, List.length_append, ih]
    cases hx : reserved x
    · simp [escape_of_plain hx, hx]; omega
    · simp [escape_of_reserved hx, hx]; omega

/-- In an escaped body the only reserved value is ESC, and a masked byte follows it. -/
theorem flatMap_escape_of_reserved {body : List Byte} {j : Nat} {b : Byte} (hj : (body.flatMap escape)[j]? = some b)
    (hb : reserved b = true) :
    b = 0x7D#8 ∧ ∃ c, (body.flatMap escape)[j + 1]? = some c ∧ (c = 0x5D#8 ∨ c = 0x5E#8 ∨ c = 0x5F#8) := by
  induction body generalizing j with
  | nil => simp at hj
  | cons x xs ih =>
    rw [List.flatMap_cons] at hj ⊢
    cases hx : reserved x
    case false =>
      rw [escape_of_plain hx] at hj ⊢
      match j with
      | 0 =>
        cases hj
        exact absurd hb (by simp [hx])
      | j + 1 => exact ih hj
    case true =>
      rw [escape_of_reserved hx] at hj ⊢
      match j with
      | 0 =>
        cases hj
        exact ⟨rfl, _, rfl, masked_of_reserved hx⟩
      | 1 =>
        cases hj
        exact absurd hb (by simp [reserved_masked hx])
      | j + 2 => exact ih hj

/-! ### The frame -/

theorem length_encodeFrame (body : List Byte) :
    (encodeFrame body).length = 2 + body.length + body.countP reserved := by
  simp only [encodeFrame, List.length_append, List.length_singleton, length_flatMap_escape]
  omega

/-- Between the delimiters a frame is its escaped body. -/
theorem getElem?_encodeFrame_inner {body : List Byte} {j : Nat} (h : j < (body.flatMap escape).length) :
    (encodeFrame body)[j + 1]? = (body.flatMap escape)[j]? := by
  simp [encodeFrame, List.getElem?_append_left h]

/-- Settles O14: the length counts the escaped bytes, and each law about the band is the escaped body's. -/
theorem encodeObeysItsLengthAndBandLaws : Obligations.EncodeObeysItsLengthAndBandLaws := by
  refine ⟨fun body => ?_, fun b hb => reserved_masked hb⟩
  have hlen := length_encodeFrame body
  have hesc := length_flatMap_escape body
  have hcount : body.countP reserved ≤ body.length := List.countP_le_length
  refine ⟨hlen, by omega, by omega, rfl, List.getLast?_concat, ?band⟩
  intro i b hpos hlast hi hb
  obtain ⟨j, rfl⟩ : ∃ j, i = j + 1 := ⟨i - 1, by omega⟩
  rw [getElem?_encodeFrame_inner (by omega)] at hi
  obtain ⟨hbyte, c, hc, hmasked⟩ := flatMap_escape_of_reserved hi hb
  have hj : j + 1 < (body.flatMap escape).length := (List.getElem?_eq_some_iff.mp hc).1
  exact ⟨hbyte, c, (getElem?_encodeFrame_inner hj).trans hc, hmasked⟩

end Sys2Proof.Machine
end

section
/-! The decoder's transitions D1 to D7 (43_serial_framer.md R187 to R194): a row that is taken, Append's two outcomes,
and the statements about each row assembled from them. -/

namespace Sys2Proof.Machine

/-- An enabled row takes its byte off `srx` and acts (R186). -/
theorem takeTransition_of_enabled {s : State} {st : DecState} {b : Byte} (act : State → State) (hx : s.srx = some b)
    (hf : s.frmValid = false) (hd : s.decState = st) :
    takeTransition st b act s = act { s with srx := none } := by
  simp [takeTransition, canFeed, hx, hf, hd]

/-! ### Append -/

theorem appendByte_of_room {s : State} (x : Byte) (h : s.decIdx.toNat < s.cfg.maxPkt) :
    s.appendByte x =
      { s with
        mem := writeByte s.mem (0x300 + s.decIdx.toNat) x, decIdx := s.decIdx + 0x01#8, decState := .receiving } :=
  if_pos h

theorem appendByte_of_full {s : State} (x : Byte) (h : s.decIdx.toNat = s.cfg.maxPkt) :
    s.appendByte x = { s with decState := .idle, decIdx := 0x00#8 } :=
  if_neg (by omega)

/-- With room, Append stores the byte at ACC[DEC_IDX] and leaves every other byte (R185, R194). -/
theorem appendByte_stores {s : State} (x : Byte) (hwf : Memory.wf s.mem = true) (h : s.decIdx.toNat < s.cfg.maxPkt) :
    ∃ mem', s.appendByte x = { s with mem := mem', decIdx := s.decIdx + 0x01#8, decState := .receiving } ∧
      readByte mem' (0x300 + s.decIdx.toNat) = x ∧
      ∀ a, a ≠ 0x300 + s.decIdx.toNat → readByte mem' a = readByte s.mem a :=
  ⟨_, appendByte_of_room x h, readByte_writeByte_self _ x hwf, fun _ ha => readByte_writeByte_ne s.mem x ha⟩

/-! ### The rows -/

/-- D6, while its byte is on offer, is Append of that byte (R192). -/
theorem exec_feedRecvData {s : State} {b : Byte} (hb : reserved b = false) (hx : s.srx = some b)
    (hf : s.frmValid = false) (hd : s.decState = .receiving) :
    exec (.feedRecvData b) s = .next (State.appendByte { s with srx := none } b) :=
  calc exec (.feedRecvData b) s
    _ = .next (takeTransition .receiving b (actRecvData b) s) := congrArg _ (if_neg (by simp [hb]))
    _ = .next (State.appendByte { s with srx := none } b) :=
      congrArg _ (takeTransition_of_enabled (actRecvData b) hx hf hd)

/-- D7, while its byte is on offer, is Append of the masked byte (R193). -/
theorem exec_feedEscAny {s : State} {b : Byte} (hx : s.srx = some b) (hf : s.frmValid = false)
    (hd : s.decState = .escapePending) :
    exec (.feedEscAny b) s = .next (State.appendByte { s with srx := none } (b ^^^ 0x20#8)) :=
  congrArg _ (takeTransition_of_enabled (actEscAny b) hx hf hd)

/-- Settles O37: each of the four rows is taken and acts. -/
theorem startAndEscapeTransitions : Obligations.StartAndEscapeTransitions := by
  intro s hf
  refine ⟨fun hx hd => ?start, fun b hb hx hd => ?other, fun hx hd => ?esc, fun hx hd => ?restart⟩
  case start => exact congrArg _ (takeTransition_of_enabled actIdleStart hx hf hd)
  case other => exact congrArg _ ((if_neg hb).trans (takeTransition_of_enabled actIdleOther hx hf hd))
  case esc => exact congrArg _ (takeTransition_of_enabled actRecvEsc hx hf hd)
  case restart => exact congrArg _ (takeTransition_of_enabled actRecvStart hx hf hd)

/-- Settles O39: D6 is Append of the byte, in either of Append's outcomes. -/
theorem dataByteIsAppendedOrOverflows : Obligations.DataByteIsAppendedOrOverflows := by
  intro s b hwf hx hf hd h1 h2 h3
  rw [exec_feedRecvData (reserved_eq_false_of_ne h1 h2 h3) hx hf hd]
  refine ⟨fun hroom => ?room, fun hfull => ?full⟩
  case room =>
    obtain ⟨mem', happ, hreads⟩ := appendByte_stores (s := { s with srx := none }) b hwf hroom
    exact ⟨mem', by rw [happ, ← hd], hreads⟩
  case full => exact congrArg _ (appendByte_of_full b hfull)

/-- Settles O40: D7 is Append of the masked byte, in either of Append's outcomes. -/
theorem escapedByteIsAppendedOrOverflows : Obligations.EscapedByteIsAppendedOrOverflows := by
  intro s b hwf hx hf hd
  rw [exec_feedEscAny hx hf hd]
  refine ⟨fun hroom => ?room, fun hfull => ?full⟩
  case room =>
    obtain ⟨mem', happ, hreads⟩ := appendByte_stores (s := { s with srx := none }) (b ^^^ 0x20#8) hwf hroom
    exact ⟨mem', congrArg _ happ, hreads⟩
  case full => exact congrArg _ (appendByte_of_full _ hfull)

end Sys2Proof.Machine
end

section
/-! Who writes the decoder (43_serial_framer.md R184; 10_state.md R34, R35): what every move but FEED and RESET keeps of
it, and the moves that take a frame off offer. -/

namespace Sys2Proof.Machine

/-- `t` has the decoder of `s`, up to a frame taken off offer: DEC_STATE, DEC_IDX, FRM_LEN and every byte from ACC
on. -/
structure KeepsDecoder (s t : State) : Prop where
  decState : t.decState = s.decState
  decIdx : t.decIdx = s.decIdx
  frmLen : t.frmLen = s.frmLen
  noNewFrame : t.frmValid = true → s.frmValid = true
  acc : ∀ a, 0x300 ≤ a → readByte t.mem a = readByte s.mem a

/-- SRC ends below ACC (R60, R62). -/
theorem isSrcAddr_lt {c : Config} {a : HostAddr} (h : isSrcAddr c a = true) : a.toNat < 0x300 := by
  obtain ⟨hpage, -⟩ := of_decide_eq_true h
  omega

/-- Only FEED and RESET write the decoder: a store goes to SRC, a reception writes and clears RXBUF. -/
theorem MoveEffect.keepsDecoder {s t : State} {m : Move} (h : MoveEffect s m t) (hcap : s.cfg.maxPkt ≤ 254)
    (hfeed : m ≠ .feed) (hreset : m ≠ .reset) : KeepsDecoder s t := by
  cases h with
  | storesSrc a v _ hsrc =>
    have hlt := isSrcAddr_lt hsrc
    exact ⟨rfl, rfl, rfl, id, fun b hb => readByte_writeByte_ne s.mem v (by omega)⟩
  | readsPayload data _ _ hlen =>
    have hlt := s.peL.isLt
    exact ⟨rfl, rfl, rfl, id, fun b hb => readByte_writeBytes_outside s.mem 0x200 data (.inr (by omega))⟩
  | leavesRx =>
    exact ⟨rfl, rfl, rfl, id, fun b hb => (readByte_clearBytes s.mem 0x200 s.cfg.maxPkt b).trans (if_neg (by omega))⟩
  | acksFrame | acksBoth => exact ⟨rfl, rfl, rfl, nofun, fun _ _ => rfl⟩
  | startsFrame | discardsByte | holdsEscape | endsFrame | appends | overflows => exact absurd rfl hfeed
  | resets => exact absurd rfl hreset
  | _ => exact ⟨rfl, rfl, rfl, id, fun _ _ => rfl⟩

/-- A frame on offer is taken off by FRM_ACK or RESET alone (R31, R184). -/
theorem MoveEffect.frmValid_falls {s t : State} {m : Move} (h : MoveEffect s m t) (hs : s.frmValid = true)
    (ht : t.frmValid = false) : m = .reset ∨ ∃ v : Byte, m = .hostWrite 0x004#10 v ∧ v.getLsbD 0 = true := by
  cases h with
  | acksFrame v hack => exact .inr ⟨v, rfl, hack⟩
  | acksBoth v _ hack => exact .inr ⟨v, rfl, hack⟩
  | resets => exact .inl rfl
  | endsFrame => exact nomatch ht
  | _ => exact nomatch hs.symm.trans ht

/-- A step's move has its effect on the state that the move runs on: the step's own but for `moves` and `turn`. -/
theorem TakesMove.effect {s t : State} {m : Move} (h : TakesMove s m t) :
    ∃ ms n, MoveEffect { s with moves := ms, turn := n } m t := by
  obtain ⟨-, ⟨ms, -, hrun⟩ | ⟨-, -, hrun⟩⟩ := h
  · exact ⟨ms, s.turn, effect_of_runMove hrun⟩
  · exact ⟨s.moves, s.turn + 1, effect_of_runMove hrun⟩

/-- Settles O58: both parts are read off the effect of the step's move. -/
theorem decoderHasOnlyItsWriters : Obligations.DecoderHasOnlyItsWriters := by
  intro s t m hok htakes
  obtain ⟨-, hcap, -⟩ := hok
  obtain ⟨ms, n, heffect⟩ := htakes.effect
  refine ⟨fun hfeed hreset => ?kept, fun hs ht => heffect.frmValid_falls hs ht⟩
  have hkeeps := heffect.keepsDecoder hcap hfeed hreset
  exact ⟨hkeeps.decState, hkeeps.decIdx, hkeeps.frmLen, hkeeps.noNewFrame, fun i _ => hkeeps.acc _ (by omega)⟩

end Sys2Proof.Machine
end

section
/-! Feeding bytes one by one (43_serial_framer.md R186, R196): the run of two steps a byte, with no frame on offer on
the way, and the resynchronisation statement as a chain of five such runs. -/

namespace Sys2Proof.Machine

/-! ### Runs with no frame on offer -/

theorem run_succ {s t : State} (k : Nat) (h : step s = .next t) : run (k + 1) s = run k t := by
  simp only [run, h]

/-- A run goes on from where its first part arrives. -/
theorem run_add {m : Nat} {s u : State} (n : Nat) (h : run m s = .next u) : run (m + n) s = run n u := by
  induction m generalizing s with
  | zero =>
    cases h
    rw [Nat.zero_add]
  | succ m ih =>
    cases hs : step s with
    | next t =>
      rw [run_succ m hs] at h
      rw [Nat.add_right_comm, run_succ _ hs, ih h]
    | fault r => simp [run, hs] at h
    | refused r => simp [run, hs] at h

/-- `n` steps lead from `s` to `t`, and no state before the last has a frame on offer. -/
structure RunsWithoutFrame (n : Nat) (s t : State) : Prop where
  arrives : run n s = .next t
  noFrame : ∀ k u, k < n → run k s = .next u → u.frmValid = false

theorem RunsWithoutFrame.trans {m n : Nat} {s u t : State} (h1 : RunsWithoutFrame m s u)
    (h2 : RunsWithoutFrame n u t) : RunsWithoutFrame (m + n) s t where
  arrives := (run_add n h1.arrives).trans h2.arrives
  noFrame k v hk hv := by
    by_cases hlt : k < m
    · exact h1.noFrame k v hlt hv
    · obtain ⟨j, rfl⟩ := Nat.exists_eq_add_of_le (Nat.le_of_not_lt hlt)
      exact h2.noFrame j v (by omega) ((run_add j h1.arrives).symm.trans hv)

/-- One step from a state with no frame on offer. -/
theorem RunsWithoutFrame.one {s t : State} (h : step s = .next t) (hf : s.frmValid = false) :
    RunsWithoutFrame 1 s t where
  arrives := run_succ 0 h
  noFrame k u hk hu := by
    obtain rfl : k = 0 := by omega
    cases hu
    exact hf

/-! ### One byte -/

/-- SRX puts a byte on offer when none is (R68). -/
theorem step_srx {s : State} {b : Byte} {ms : List Move} (hm : s.moves = .srx b :: ms) (hx : s.srx = none) :
    step s = .next { s with moves := ms, srx := some b } := by
  rw [step_queued hm, runMove_srx]
  simp [srxStep, hx]

/-- FEED takes the byte on offer by the transition of (DEC_STATE, b) (R186). -/
theorem step_feed {s : State} {b : Byte} {ms : List Move} (hm : s.moves = .feed :: ms) (hx : s.srx = some b)
    (hf : s.frmValid = false) : step s = .next (feedAct s.decState b { s with moves := ms, srx := none }) := by
  rw [step_queued hm, runMove_feed (s := { s with moves := ms }) hx]
  simp [execFeed, canFeed, hx, hf]

/-- A fed byte is offered and taken: the transition of (DEC_STATE, b), with the rest still to be fed. -/
theorem runsWithoutFrame_feedByte {s : State} {b : Byte} {bs : List Byte} {ms : List Move}
    (hm : s.moves = feedMoves (b :: bs) ++ ms) (hx : s.srx = none) (hf : s.frmValid = false) :
    RunsWithoutFrame 2 s (feedAct s.decState b { s with moves := feedMoves bs ++ ms }) := by
  have hoffer := RunsWithoutFrame.one (step_srx hm hx) hf
  have htake := RunsWithoutFrame.one
    (step_feed (s := { s with moves := .feed :: (feedMoves bs ++ ms), srx := some b }) rfl rfl hf) hf
  rw [← hx] at htake
  exact hoffer.trans htake

/-! ### The transitions FEED dispatches to -/

/-- START starts the frame afresh in IDLE and RECEIVING alike (R187, R190). -/
theorem feedAct_start {s : State} (h : s.decState ≠ .escapePending) :
    feedAct s.decState 0x7E#8 s = { s with decState := .receiving, decIdx := 0x00#8 } := by
  cases hd : s.decState with
  | idle => rfl
  | receiving =>
    change actRecvStart s = _
    rw [← hd]
    rfl
  | escapePending => exact absurd hd h

/-- A data byte is appended (R192). -/
theorem feedAct_data {s : State} {b : Byte} (hd : s.decState = .receiving) (hb : reserved b = false) :
    feedAct s.decState b s = s.appendByte b := by
  have hne : ∀ c, reserved c = true → b ≠ c := fun c hc hbc => by simp [hbc, hc] at hb
  simp [feedAct, actRecvData, hd, hne escByte rfl, hne startByte rfl, hne endByte rfl]

/-- END completes the frame (R191). -/
theorem feedAct_end {s : State} (hd : s.decState = .receiving) :
    feedAct s.decState 0x7F#8 s =
      { s with frmLen := s.decIdx, frmValid := true, decState := .idle, decIdx := 0x00#8 } := by
  rw [hd]
  rfl

/-! ### What a fed byte does -/

section
variable {s : State} {bs : List Byte} {ms : List Move}

theorem runsWithoutFrame_feedStart (hm : s.moves = feedMoves (0x7E#8 :: bs) ++ ms) (hx : s.srx = none)
    (hf : s.frmValid = false) (hd : s.decState ≠ .escapePending) :
    RunsWithoutFrame 2 s { s with moves := feedMoves bs ++ ms, decState := .receiving, decIdx := 0x00#8 } := by
  have hbyte := runsWithoutFrame_feedByte hm hx hf
  rwa [feedAct_start (s := { s with moves := feedMoves bs ++ ms }) hd] at hbyte

/-- A data byte is stored when there is room (R192). -/
theorem runsWithoutFrame_feedData {b : Byte} (hm : s.moves = feedMoves (b :: bs) ++ ms) (hx : s.srx = none)
    (hf : s.frmValid = false) (hd : s.decState = .receiving) (hb : reserved b = false)
    (hroom : s.decIdx.toNat < s.cfg.maxPkt) :
    RunsWithoutFrame 2 s
      { s with
        moves := feedMoves bs ++ ms, mem := writeByte s.mem (0x300 + s.decIdx.toNat) b
        decIdx := s.decIdx + 0x01#8, decState := .receiving } := by
  have hbyte := runsWithoutFrame_feedByte hm hx hf
  rwa [feedAct_data (s := { s with moves := feedMoves bs ++ ms }) hd hb,
    appendByte_of_room (s := { s with moves := feedMoves bs ++ ms }) b hroom] at hbyte

/-- END puts the frame on offer, and not before (R191). -/
theorem runsWithoutFrame_feedEnd (hm : s.moves = feedMoves (0x7F#8 :: bs) ++ ms) (hx : s.srx = none)
    (hf : s.frmValid = false) (hd : s.decState = .receiving) :
    RunsWithoutFrame 2 s
      { s with
        moves := feedMoves bs ++ ms, frmLen := s.decIdx, frmValid := true, decState := .idle, decIdx := 0x00#8 } := by
  have hbyte := runsWithoutFrame_feedByte hm hx hf
  rwa [feedAct_end (s := { s with moves := feedMoves bs ++ ms }) hd] at hbyte

end

/-- Settles O42: five fed bytes one after the other. The first data byte is dropped by the second START, and the second
one is the frame. -/
theorem resynchronisationDeliversOneFrame : Obligations.ResynchronisationDeliversOneFrame := by
  intro s ms hok hwf hf hd hx hm
  obtain ⟨hroom, -, -⟩ := hok
  have hstart := runsWithoutFrame_feedStart hm hx hf hd
  have hdata := hstart.trans (runsWithoutFrame_feedData rfl hx hf rfl rfl hroom)
  have hrestart := hdata.trans (runsWithoutFrame_feedStart rfl hx hf nofun)
  have hdata' := hrestart.trans (runsWithoutFrame_feedData rfl hx hf rfl rfl hroom)
  have hend := hdata'.trans (runsWithoutFrame_feedEnd rfl hx hf rfl)
  exact ⟨hend.noFrame, _, hend.arrives, rfl, rfl, readBytes_writeBytes (wf_writeByte hwf _ _) 0x300 [0x42#8], rfl, rfl,
    rfl⟩

end Sys2Proof.Machine
end

section
/-! Host writes that are no command and no acknowledgement (20_memory.md R62, R65; 44_control.md R212, R213, R217): the
SRC window as an interval of addresses, one equation per outcome of a store, and the statement about each address. -/

namespace Sys2Proof.Machine

/-- While SRC fits its page, its addresses are the interval from 0x100 on (R62). -/
theorem isSrcAddr_iff {c : Config} {a : HostAddr} (hcap : c.maxPkt ≤ 254) :
    isSrcAddr c a = true ↔ 0x100 ≤ a.toNat ∧ a.toNat < 0x100 + (c.maxPkt + 1) := by
  simp only [isSrcAddr, srcCap, decide_eq_true_eq]
  omega

theorem hostStore_argLen {s : State} (v : Byte) (hb : s.busy = false) :
    hostStore 0x001#10 v s = { s with argLen := v } := by
  simp [hostStore, hb]

theorem hostStore_argDest {s : State} (v : Byte) (hb : s.busy = false) :
    hostStore 0x002#10 v s = { s with argDest := v } := by
  simp [hostStore, hb, argLenAddr]

theorem hostStore_src {s : State} {a : HostAddr} (v : Byte) (hb : s.busy = false) (h1 : a ≠ 0x001#10)
    (h2 : a ≠ 0x002#10) (hsrc : isSrcAddr s.cfg a = true) :
    hostStore a v s = { s with mem := writeByte s.mem a.toNat v } := by
  simp [hostStore, hb, h1, h2, hsrc]

/-- Whatever BUSY, an address that is none of the three ignores the byte (R217). -/
theorem hostStore_ignored {s : State} {a : HostAddr} (v : Byte) (h1 : a ≠ 0x001#10) (h2 : a ≠ 0x002#10)
    (hsrc : ¬isSrcAddr s.cfg a = true) : hostStore a v s = s := by
  simp [hostStore, h1, h2, hsrc]

/-- A queued write outside CMD and ACK is a step that stores on the state without it. -/
theorem step_store {s : State} {a : HostAddr} {v : Byte} {ms : List Move} (hm : s.moves = .hostWrite a v :: ms)
    (h0 : a ≠ 0x000#10) (h4 : a ≠ 0x004#10) : step s = .next (hostStore a v { s with moves := ms }) :=
  (step_queued hm).trans (runMove_store v _ h0 h4)

/-- Settles O49: a store at each kind of address, by its equation; at SRC the memory is `writeByte`, whose reads are
known. -/
theorem hostWritesStoreOrAreIgnored : Obligations.HostWritesStoreOrAreIgnored := by
  intro s a v ms hok hwf hm
  obtain ⟨-, hcap, -⟩ := hok
  refine ⟨?argLen, ?argDest, fun hb hlo hhi => ?src, fun hother => ?ignored⟩
  case argLen =>
    rintro hb rfl
    exact (step_store hm (by decide) (by decide)).trans (congrArg _ (hostStore_argLen v hb))
  case argDest =>
    rintro hb rfl
    exact (step_store hm (by decide) (by decide)).trans (congrArg _ (hostStore_argDest v hb))
  case src =>
    have hstep := step_store hm (by bv_omega) (by bv_omega)
    have hstore := hostStore_src (s := { s with moves := ms }) v hb (by bv_omega) (by bv_omega)
      ((isSrcAddr_iff hcap).mpr ⟨hlo, hhi⟩)
    exact ⟨writeByte s.mem a.toNat v, hstep.trans (congrArg _ hstore), readByte_writeByte_self _ v hwf,
      fun _ hne => readByte_writeByte_ne s.mem v hne⟩
  case ignored =>
    have hstep := step_store hm (by bv_omega) (by bv_omega)
    have hsrc : ¬isSrcAddr s.cfg a = true := by
      rw [isSrcAddr_iff hcap]
      bv_omega
    exact hstep.trans (congrArg _ (hostStore_ignored v (by bv_omega) (by bv_omega) hsrc))

end Sys2Proof.Machine
end

section
/-! ACK writes with nothing on offer (44_control.md R215): what the ACK rows run, and each part without effect. -/

namespace Sys2Proof.Machine

/-- ACK_FRM without PKT_ACK is the frame part alone (R214). -/
theorem exec_ackFrm_alone (wake : Bool) (s : State) : exec (.ackFrm false wake) s = .next (ackFramePart s) := rfl

/-- ACK_FRM with PKT_ACK is the frame part, then the packet part (R212). -/
theorem exec_ackFrm_both (wake : Bool) (s : State) :
    exec (.ackFrm true wake) s = .next (ackPacketPart wake (ackFramePart s)) := rfl

/-- ACK_PKT is the packet part alone (R216). -/
theorem exec_ackPkt (wake : Bool) (s : State) : exec (.ackPkt wake) s = .next (ackPacketPart wake s) := rfl

theorem ackFramePart_of_none {s : State} (hf : s.frmValid = false) : ackFramePart s = s := by
  simp [ackFramePart, hf]

theorem ackPacketPart_of_none {s : State} (wake : Bool) (hp : s.pktValid = false) : ackPacketPart wake s = s := by
  simp [ackPacketPart, hp]

/-- Delivering the frame leaves the packet on offer as it is. -/
@[simp] theorem ackFramePart_pktValid (s : State) : (ackFramePart s).pktValid = s.pktValid := by
  rcases ackFramePart_cases s with ⟨-, h⟩ | ⟨-, h⟩ <;> rw [h]
  rfl

/-- A queued ACK write with neither ACK bit leaves the state without it, whatever WAKE is (R215). -/
theorem step_ack_nothing {s : State} {v : Byte} {ms : List Move} (hm : s.moves = .hostWrite 0x004#10 v :: ms)
    (h0 : v.getLsbD 0 = false) (h1 : v.getLsbD 1 = false) : step s = .next { s with moves := ms } := by
  rw [step_queued hm, runMove_ack, h0, h1]
  rfl

/-- Settles O35: each part of an ACK write with nothing on offer is the identity, and with neither bit no part runs. -/
theorem ackOfNothingChangesNothing : Obligations.AckOfNothingChangesNothing := by
  intro s wake
  rw [exec_ackFrm_alone, exec_ackFrm_both, exec_ackPkt]
  refine ⟨fun hf => ?frame, fun hp => ?packet, fun hf => ?bothNoFrame, fun hp => ?bothNoPacket,
    fun v ms h0 h1 hm => step_ack_nothing hm h0 h1⟩
  case frame => exact congrArg _ (ackFramePart_of_none hf)
  case packet => exact congrArg _ (ackPacketPart_of_none wake hp)
  case bothNoFrame => rw [ackFramePart_of_none hf]
  case bothNoPacket => exact congrArg _ (ackPacketPart_of_none wake ((ackFramePart_pktValid s).trans hp))

end Sys2Proof.Machine
end

section
/-! Rejected commands (60_exceptions.md R232, R233): what each CMD8 row runs, which opcodes and lengths fall outside the
tables, and the two rejections assembled from the outcomes of an offered command. -/

namespace Sys2Proof.Machine

/-! ### What the rows run -/

theorem exec_encSend (s : State) : exec .encSend s = .next (offerCommand 0x01#8 s) := rfl

theorem exec_txPacket (s : State) : exec .txPacket s = .next (offerCommand 0x02#8 s) := rfl

theorem exec_txRaw (s : State) : exec .txRaw s = .next (offerCommand 0x03#8 s) := rfl

theorem exec_illegalOpcode (op : Byte) (s : State) : exec (.illegalOpcode op) s = .next (offerCommand op s) := rfl

/-! ### What falls outside the tables -/

/-- The opcodes outside the OPCODE map are the range R232 names. -/
theorem opcodeOf_eq_none_iff_range {v : Byte} : opcodeOf v = none ↔ v = 0x00#8 ∨ 0x05 ≤ v.toNat := by
  rw [opcodeOf_eq_none_iff]
  bv_omega

theorem lenOk_encSend_iff {c : Config} {len : Byte} : lenOk c .encSend len = true ↔ len.toNat ≤ c.maxPkt + 1 := by
  simp [lenOk_iff]

theorem lenOk_txPacket_iff {c : Config} {len : Byte} : lenOk c .txPacket len = true ↔ len.toNat ≤ c.maxPkt - 1 := by
  simp [lenOk_iff]

theorem lenOk_txRaw_iff {c : Config} {len : Byte} :
    lenOk c .txRaw len = true ↔ 1 ≤ len.toNat ∧ len.toNat ≤ c.maxPkt + 1 := by
  simp [lenOk_iff]

/-! ### The rejections -/

/-- Settles O9: the illegal opcodes are those outside the OPCODE map, and offering one raises BAD_OPCODE. -/
theorem illegalOpcodeRaisesBadOpcode : Obligations.IllegalOpcodeRaisesBadOpcode := by
  intro s op hb hop
  rw [exec_illegalOpcode, offerCommand_of_illegal hb (opcodeOf_eq_none_iff_range.mpr hop)]

/-- Settles O10: each row offers its opcode, and the length given is outside that opcode's bounds. -/
theorem badLengthIsRejected : Obligations.BadLengthIsRejected := by
  intro s hb
  rw [exec_encSend, exec_txPacket, exec_txRaw]
  refine ⟨fun hlen => ?encSend, fun hlen => ?txPacket, fun hlen => ?txRaw⟩
  case encSend =>
    have hl : ¬lenOk s.cfg .encSend s.argLen = true := by
      rw [lenOk_encSend_iff]
      omega
    exact congrArg _ (offerCommand_of_badLen hb rfl hl)
  case txPacket =>
    have hl : ¬lenOk s.cfg .txPacket s.argLen = true := by
      rw [lenOk_txPacket_iff]
      omega
    exact congrArg _ (offerCommand_of_badLen hb rfl hl)
  case txRaw =>
    have hl : ¬lenOk s.cfg .txRaw s.argLen = true := by
      rw [lenOk_txRaw_iff]
      omega
    exact congrArg _ (offerCommand_of_badLen hb rfl hl)

end Sys2Proof.Machine
end

section
/-! Host writes while BUSY (70_reset_and_hazards.md R266): a store that finds BUSY set leaves the state as it is, as a
command offered then does. -/

namespace Sys2Proof.Machine

theorem hostStore_of_busy {s : State} (a : HostAddr) (v : Byte) (hb : s.busy = true) : hostStore a v s = s :=
  if_pos hb

/-- Settles O11: the write to CMD is a command offered while BUSY, the others are stores while BUSY. -/
theorem writesWhileBusyAreLost : Obligations.WritesWhileBusyAreLost := by
  intro s a v ms hb ha hm
  by_cases hcmd : a = 0x000#10
  case pos =>
    subst hcmd
    exact (step_command hm).trans (congrArg _ (offerCommand_of_busy v hb))
  case neg =>
    have hack : a ≠ 0x004#10 := by bv_omega
    exact (step_store hm hcmd hack).trans (congrArg _ (hostStore_of_busy a v hb))

end Sys2Proof.Machine
end

section
/-! Host reads after RESET (70_reset_and_hazards.md R261): what a read of the REGS region and of a buffer window returns
on the reset block. -/

namespace Sys2Proof.Machine

theorem exec_reset (s : State) : exec .reset s = .next s.resetBlock := rfl

/-- No flag is set and ERR is NONE, so every bit of STATUS is 0. -/
@[simp] theorem statusByte_resetBlock (s : State) : statusByte s.resetBlock = 0x00#8 := by
  simp [statusByte, State.reset, flagByte, ErrCode.code]

@[simp] theorem rxResult_byte_clear : RxResult.byte ⟨false, false, false⟩ = 0x00#8 := by decide

/-- Each register at its reset value reads 0x00, as the reserved offsets do in every state. -/
theorem readRegister_resetBlock (s : State) (off : Nat) : readRegister s.resetBlock off = 0x00#8 := by
  unfold readRegister
  split <;> simp [State.reset, DecState.code]

/-- The reset memory is empty, so a byte of a buffer reads as unlisted and one beyond it as reserved. -/
theorem readWindow_resetBlock (s : State) (cap : Nat) (a : HostAddr) : readWindow s.resetBlock cap a = 0x00#8 := by
  have hmem : readByte s.resetBlock.mem a.toNat = 0x00#8 := readByte_nil a.toNat
  rw [readWindow, hmem, ite_self]

/-- Settles O46: RESET answers the reset block, in which the registers and the three windows read 0x00. -/
theorem everythingReadsZeroAfterReset : Obligations.EverythingReadsZeroAfterReset := by
  intro s t a h
  obtain rfl : s.resetBlock = t := Host.Outcome.next.inj ((exec_reset s).symm.trans h)
  unfold hostRead
  split
  · exact readRegister_resetBlock s _
  · exact readWindow_resetBlock s _ a
  · exact readWindow_resetBlock s _ a

end Sys2Proof.Machine
end

section
/-! The invariant of legal states under every step (10_state.md sections 2 to 4; 60_exceptions.md section 5): one lemma
per part of `State.Inv`, each by the effects that touch that part, and the step assembled from them. -/

namespace Sys2Proof.Machine

/-- No move changes the parameters (R21). -/
theorem MoveEffect.cfg_eq {s t : State} {m : Move} (h : MoveEffect s m t) : t.cfg = s.cfg := by cases h <;> rfl

/-! ### The reset block -/

theorem runsCommand_of_transmitting {s : State} (ht : transmitting s = true) : runsCommand s :=
  .inr (transmitting_iff.mp ht)

theorem inTxWait_iff {s : State} :
    inTxWait s = true ↔ (s.peOp = .txp ∨ s.peOp = .txr) ∧ (s.pePhase = .t3 ∨ s.pePhase = .t4) := by
  simp [inTxWait, transmitting]

theorem not_runsCommand_of_none {s : State} (hop : s.peOp = .none) : ¬runsCommand s := by simp [runsCommand, hop]

/-- While PE runs no command, its bookkeeping is about `cmd_pend` and the tick count alone. -/
theorem EngineInv.of_no_command {s : State} (hphase : phaseOf s.peOp s.pePhase) (hrun : ¬runsCommand s)
    (hbusy : s.busy = true ↔ s.cmdPend ≠ none) (hlen : ∀ c, s.cmdPend = some c → lenOk s.cfg c.op c.len = true)
    (hwait : ∀ n, s.cfg.txWaitLimit = some n → s.peWait ≤ n) : EngineInv s where
  phase := hphase
  busy_iff := by rw [hbusy, or_iff_left hrun]
  pend_free _ := hrun
  pend_len := hlen
  enc_len h := absurd (.inl h) hrun
  txp_len h := absurd (.inr (.inl h)) hrun
  txr_len h := absurd (.inr (.inr h)) hrun
  enc_idx h := absurd (.inl h) hrun
  tx_ie h := absurd (runsCommand_of_transmitting h) hrun
  wait_le n hn := ⟨hwait n hn, fun h => absurd (runsCommand_of_transmitting h) hrun⟩

/-- The reset block is legal: nothing runs, is pending or on offer, and memory is empty. -/
theorem inv_resetBlock {s : State} (hok : s.cfg.Ok) : s.resetBlock.Inv where
  cfg := hok
  mem := ⟨rfl, nofun⟩
  decoder := ⟨fun _ => rfl, Nat.zero_le _, Nat.zero_le _⟩
  engine := .of_no_command trivial (not_runsCommand_of_none rfl) (by simp [State.reset]) nofun fun n _ => Nat.zero_le n
  receive :=
    { trigger := nofun, len_fits := nofun, len_over := nofun, valid_iff := by simp [State.reset]
      valid_result := nofun, nothing := fun _ => ⟨rfl, rfl, rfl, rfl⟩, fits := nofun, oversize := nofun
      rxbuf_clear := fun _ _ _ => rfl }

/-! ### Memory -/

/-- Memory is written at SRC, RXBUF and ACC only: a store is to one of SRC's bytes, the length latched for X3 fits, and
an append finds room. -/
theorem MoveEffect.keepsMemInv {s t : State} {m : Move} (h : MoveEffect s m t) (hinv : s.Inv) : MemInv t := by
  obtain ⟨hwf, hin⟩ := hinv.mem
  cases h with
  | storesSrc a v _ hsrc =>
    obtain ⟨-, hcap, -⟩ := hinv.cfg
    have hsrc := (isSrcAddr_iff hcap).mp hsrc
    refine ⟨wf_writeByte hwf _ v, fun c hc => (mem_writeByte hc).elim (hin c) fun ha => .inl ?_⟩
    rwa [ha]
  | readsPayload data hop hp hlen =>
    have hfits := hinv.receive.len_fits hop (.inl hp)
    have hend : 0x200 + data.length ≤ 0x200 + s.cfg.maxPkt := by omega
    exact ⟨wf_writeBytes _ data hwf,
      fun c hc => (mem_writeBytes hc).elim (hin c) fun ha => .inr (.inl ⟨ha.1, ha.2.trans_le hend⟩)⟩
  | leavesRx => exact ⟨wf_clearBytes hwf _ _, fun c hc => hin c (mem_clearBytes hc)⟩
  | appends _ x _ _ hroom =>
    refine ⟨wf_writeByte hwf _ x, fun c hc => (mem_writeByte hc).elim (hin c) fun ha => .inr (.inr ?_)⟩
    rw [ha]
    exact ⟨Nat.le_add_right _ _, Nat.add_lt_add_left hroom _⟩
  | resets => exact (inv_resetBlock hinv.cfg).mem
  | _ => exact ⟨hwf, hin⟩

/-! ### The decoder -/

/-- With room in ACC, DEC_IDX counts up without wrapping. -/
theorem toNat_decIdx_succ {c : Config} {i : Byte} (hcap : c.maxPkt ≤ 254) (hroom : i.toNat < c.maxPkt) :
    (i + 0x01#8).toNat = i.toNat + 1 := by
  simp only [BitVec.toNat_add, BitVec.toNat_ofNat]
  omega

theorem MoveEffect.keepsDecoderInv {s t : State} {m : Move} (h : MoveEffect s m t) (hinv : s.Inv) : DecoderInv t := by
  obtain ⟨hidle, hidx, hlen⟩ := hinv.decoder
  cases h with
  | startsFrame => exact ⟨nofun, Nat.zero_le _, hlen⟩
  | holdsEscape => exact ⟨nofun, hidx, hlen⟩
  | endsFrame => exact ⟨fun _ => rfl, Nat.zero_le _, hidx⟩
  | appends _ _ _ _ hroom =>
    obtain ⟨-, hcap, -⟩ := hinv.cfg
    exact ⟨nofun, (toNat_decIdx_succ hcap hroom).trans_le hroom, hlen⟩
  | overflows => exact ⟨fun _ => rfl, Nat.zero_le _, hlen⟩
  | resets => exact (inv_resetBlock hinv.cfg).decoder
  | _ => exact ⟨hidle, hidx, hlen⟩

/-! ### The packet engine -/

/-- The frame ENC_SEND puts out is read from SRC, below 0x200 (R62). -/
theorem encodedSrc_congr {s t : State} (hlen : t.peLen = s.peLen)
    (hmem : ∀ a, a < 0x200 → readByte t.mem a = readByte s.mem a) : encodedSrc t = encodedSrc s := by
  have hbelow : ∀ i, i < s.peLen.toNat → 0x100 + i < 0x200 := fun i hi => by omega
  rw [encodedSrc, encodedSrc, srcData, srcData, hlen, readBytes_congr fun i hi => hmem _ (hbelow i hi)]

/-- Encode has its two delimiters, so the encoder has a byte to put at index 0 (R180). -/
theorem encodedSrc_length_pos (s : State) : 0 < (encodedSrc s).length := by
  rw [encodedSrc, length_encodeFrame]
  omega

section
variable {s t : State}

theorem EngineInv.peWait_le (h : EngineInv s) (n : Nat) (hn : s.cfg.txWaitLimit = some n) : s.peWait ≤ n :=
  (h.wait_le n hn).1

theorem EngineInv.not_runsCommand (h : EngineInv s) (hb : s.busy = false) : ¬runsCommand s := fun hrun => by
  simp [h.busy_iff.mpr (.inr hrun)] at hb

theorem not_runsCommand_of_rxd (hop : s.peOp = .rxd) : ¬runsCommand s := by simp [runsCommand, hop]

/-- Between states in which PE runs no command, BUSY and `cmd_pend` go together as they did. -/
theorem EngineInv.of_still_no_command (h : EngineInv s) (hs : ¬runsCommand s) (ht : ¬runsCommand t)
    (hphase : phaseOf t.peOp t.pePhase) (hcfg : t.cfg = s.cfg) (hbusy : t.busy = s.busy)
    (hpend : t.cmdPend = s.cmdPend) (hwait : t.peWait = s.peWait) : EngineInv t := by
  refine .of_no_command hphase ht ?_ ?_ ?_
  · rw [hbusy, hpend, h.busy_iff, or_iff_left hs]
  · rw [hcfg, hpend]
    exact h.pend_len
  · rw [hcfg, hwait]
    exact h.peWait_le

/-- A command that completes leaves PE free and BUSY clear, since none is pending while one runs. -/
theorem EngineInv.of_completion (h : EngineInv s) (hrun : runsCommand s) (hop : t.peOp = .none) (hbusy : t.busy = false)
    (hpend : t.cmdPend = s.cmdPend) (hwait : ∀ n, t.cfg.txWaitLimit = some n → t.peWait ≤ n) : EngineInv t := by
  have hnone : t.cmdPend = none := hpend.trans (not_not.mp fun hsome => h.pend_free hsome hrun)
  refine .of_no_command ?_ (not_runsCommand_of_none hop) ?_ ?_ hwait <;> simp [hop, phaseOf, hbusy, hnone]

/-- A transmit starts at T1 with a legal length, IE clear and no tick counted (R134). -/
theorem EngineInv.of_transmit_start (hop : t.peOp = .txp ∨ t.peOp = .txr) (hphase : t.pePhase = .t1)
    (hbusy : t.busy = true) (hpend : t.cmdPend = none) (htxp : t.peOp = .txp → lenOk t.cfg .txPacket t.peLen = true)
    (htxr : t.peOp = .txr → lenOk t.cfg .txRaw t.peLen = true) (hie : t.ie = false) (hwait : t.peWait = 0)
    (hlimit : t.cfg.txWaitLimit ≠ some 0) : EngineInv t where
  phase := by rcases hop with hop | hop <;> simp [phaseOf, hop, hphase]
  busy_iff := by simp only [hbusy, true_iff]; exact .inr (.inr hop)
  pend_free hsome := absurd hpend hsome
  pend_len := by simp [hpend]
  enc_len henc := by simp [henc] at hop
  txp_len := htxp
  txr_len := htxr
  enc_idx henc := by simp [henc] at hop
  tx_ie _ := hie
  wait_le n hn := by
    rw [hwait]
    exact ⟨Nat.zero_le n, fun _ => Nat.pos_of_ne_zero fun h0 => hlimit (h0 ▸ hn)⟩

end

theorem MoveEffect.keepsEngineInv {s t : State} {m : Move} (h : MoveEffect s m t) (hinv : s.Inv) : EngineInv t := by
  have heng := hinv.engine
  obtain ⟨-, hcap, hlimit⟩ := hinv.cfg
  cases h with
  | accepts v op hb _ hl =>
    refine .of_no_command heng.phase (heng.not_runsCommand hb) (by simp) ?_ heng.peWait_le
    rintro c ⟨⟩
    exact hl
  | acksPacket _ _ _ hv | acksBoth _ _ _ _ _ hv =>
    obtain ⟨hop, -⟩ := hinv.receive.valid_iff.mp hv
    have hrun := not_runsCommand_of_rxd hop
    exact heng.of_still_no_command hrun hrun (by simp [phaseOf, hop]) rfl rfl rfl rfl
  | storesSrc a v hb _ => exact { heng with enc_idx := fun hop => absurd (.inl hop) (heng.not_runsCommand hb) }
  | startsEnc c hop hc ho =>
    have hlen := heng.pend_len c hc
    rw [ho] at hlen
    exact
      { phase := rfl
        busy_iff := by simp [runsCommand, heng.busy_iff, hc]
        pend_free := nofun
        pend_len := nofun
        enc_len := fun _ => hlen
        txp_len := nofun
        txr_len := nofun
        enc_idx := fun _ => encodedSrc_length_pos _
        tx_ie := nofun
        wait_le := fun n hn => ⟨heng.peWait_le n hn, nofun⟩ }
  | startsTxp c hop hc ho =>
    have hlen := heng.pend_len c hc
    rw [ho] at hlen
    exact .of_transmit_start (.inl rfl) rfl (heng.busy_iff.mpr (by simp [hc])) rfl (fun _ => hlen) nofun rfl rfl hlimit
  | startsTxr c hop hc ho =>
    have hlen := heng.pend_len c hc
    rw [ho] at hlen
    exact .of_transmit_start (.inr rfl) rfl (heng.busy_iff.mpr (by simp [hc])) rfl nofun (fun _ => hlen) rfl rfl hlimit
  | setsUp c hop =>
    exact .of_no_command heng.phase (not_runsCommand_of_none hop) (by simp) (by simp) heng.peWait_le
  | entersRx hop =>
    exact heng.of_still_no_command (not_runsCommand_of_none hop) (not_runsCommand_of_rxd rfl) (.inl rfl) rfl rfl rfl rfl
  | putsByte b hop hb hlast =>
    have hidx := heng.enc_idx hop
    exact { heng with enc_idx := fun _ => Nat.lt_of_le_of_ne hidx hlast }
  | putsLastByte b hop => exact heng.of_completion (.inl hop) rfl rfl rfl heng.peWait_le
  | writesBurst ht | strobesTx ht | passesT3 ht =>
    exact { heng with phase := by rcases transmitting_iff.mp ht with hop | hop <;> simp [phaseOf, hop] }
  | findsNothing _ hop | findsBytes _ hop | readsFitting _ hop | readsOversize _ hop | readsPayload _ hop
  | passesCrc _ _ hop | failsCrc _ _ hop | flushes hop =>
    have hrun := not_runsCommand_of_rxd hop
    exact heng.of_still_no_command hrun hrun (by simp [phaseOf, hop]) rfl rfl rfl rfl
  | endsTransmit ht => exact heng.of_completion (runsCommand_of_transmitting ht) rfl rfl rfl heng.peWait_le
  | leavesRx hop =>
    exact heng.of_still_no_command (not_runsCommand_of_rxd hop) (not_runsCommand_of_none rfl) trivial rfl rfl rfl rfl
  | countsTick n hn _ hlt =>
    refine { heng with wait_le := fun k hk => ?_ }
    cases hn.symm.trans hk
    exact ⟨hlt.le, fun _ => hlt⟩
  | timesOut n hn hw =>
    have ht := transmitting_iff.mpr (inTxWait_iff.mp hw).1
    exact heng.of_completion (runsCommand_of_transmitting ht) rfl rfl rfl fun k hk => (heng.wait_le k hk).2 ht
  | appends _ x =>
    have hsrc : encodedSrc { s with mem := writeByte s.mem (0x300 + s.decIdx.toNat) x } = encodedSrc s :=
      encodedSrc_congr rfl fun a ha => readByte_writeByte_ne s.mem x (by omega)
    exact { heng with enc_idx := fun hop => (heng.enc_idx hop).trans_eq (congrArg List.length hsrc.symm) }
  | resets => exact (inv_resetBlock hinv.cfg).engine
  | _ => exact { heng with }

/-! ### Reception -/

/-- The part of `ReceiveInv` about the RX registers: they agree with the outcome table (R164). -/
structure OutcomeTable (s : State) : Prop where
  nothing : s.rxResult.present = false →
    s.rxResult = ⟨false, false, false⟩ ∧ s.rxLen = 0x00#8 ∧ s.rxRssi = 0x00#8 ∧ s.rxLqiCrc = 0x00#8
  fits : s.rxResult.present = true → s.rxResult.oversize = false →
    s.rxLen.toNat ≤ s.cfg.maxPkt ∧ s.rxResult.crcOk = crcOk s.rxLqiCrc
  oversize : s.rxResult.oversize = true →
    s.rxResult = ⟨true, false, true⟩ ∧ s.cfg.maxPkt < s.rxLen.toNat ∧ s.rxRssi = 0x00#8 ∧ s.rxLqiCrc = 0x00#8

section
variable {s t : State}

/-- A packet is on offer at X6 only (R159). -/
theorem ReceiveInv.pktValid_eq_false (h : ReceiveInv s) (hout : s.peOp = .rxd → s.pePhase ≠ .x6) :
    s.pktValid = false :=
  Bool.eq_false_iff.mpr fun hv => hout (h.valid_iff.mp hv).1 (h.valid_iff.mp hv).2

/-- Outside RX_DISPATCH nothing is on offer and RXBUF is zero, so the bookkeeping is about the RX registers and
memory. -/
theorem ReceiveInv.of_not_receiving (h : ReceiveInv s) (hs : s.peOp ≠ .rxd) (ht : t.peOp ≠ .rxd)
    (hcfg : t.cfg = s.cfg) (hmem : t.mem = s.mem) (hvalid : t.pktValid = s.pktValid) (hresult : t.rxResult = s.rxResult)
    (hlen : t.rxLen = s.rxLen) (hrssi : t.rxRssi = s.rxRssi) (hlqi : t.rxLqiCrc = s.rxLqiCrc) : ReceiveInv t where
  trigger hop := absurd hop ht
  len_fits hop := absurd hop ht
  len_over hop := absurd hop ht
  valid_iff := by simp [hvalid, h.pktValid_eq_false fun hop => absurd hop hs, ht]
  valid_result := by simp [hvalid, h.pktValid_eq_false fun hop => absurd hop hs]
  nothing := by simpa only [hresult, hlen, hrssi, hlqi] using h.nothing
  fits := by simpa only [hresult, hlen, hlqi, hcfg] using h.fits
  oversize := by simpa only [hresult, hlen, hrssi, hlqi, hcfg] using h.oversize
  rxbuf_clear _ := by simpa only [hmem, hcfg] using h.rxbuf_clear fun hrx => hs hrx.1

/-- At X7 nothing is on offer and RXBUF may hold anything, so the bookkeeping is the trigger and the RX registers. -/
theorem ReceiveInv.of_x7 (hop : t.peOp = .rxd) (hp : t.pePhase = .x7) (htrig : t.ie = true ∧ t.ifg = true)
    (hvalid : t.pktValid = false) (hout : OutcomeTable t) : ReceiveInv t where
  trigger _ := htrig
  len_fits := by simp [hp]
  len_over := by simp [hp]
  valid_iff := by simp [hvalid, hp]
  valid_result := by simp [hvalid]
  nothing := hout.nothing
  fits := hout.fits
  oversize := hout.oversize
  rxbuf_clear hne := absurd ⟨hop, .inr (.inr hp)⟩ hne

end

theorem not_rxd_of_transmitting {s : State} (ht : transmitting s = true) : s.peOp ≠ .rxd := by
  rcases transmitting_iff.mp ht with hop | hop <;> simp [hop]

theorem MoveEffect.keepsReceiveInv {s t : State} {m : Move} (h : MoveEffect s m t) (hinv : s.Inv) : ReceiveInv t := by
  have hrec := hinv.receive
  have hfree : s.peOp = .none → s.peOp ≠ .rxd := fun hop => by simp [hop]
  obtain ⟨-, hcap, -⟩ := hinv.cfg
  cases h with
  | acksPacket _ _ _ hv | acksBoth _ _ _ _ _ hv =>
    obtain ⟨hop, -⟩ := hrec.valid_iff.mp hv
    exact .of_x7 hop rfl (hrec.trigger hop) rfl ⟨hrec.nothing, hrec.fits, hrec.oversize⟩
  | storesSrc a v _ hsrc =>
    obtain ⟨-, hlt⟩ := (isSrcAddr_iff hcap).mp hsrc
    have hmem : ∀ i, readByte (writeByte s.mem a.toNat v) (0x200 + i) = readByte s.mem (0x200 + i) := fun i =>
      readByte_writeByte_ne s.mem v (by omega)
    exact { hrec with rxbuf_clear := fun hout i hi => (hmem i).trans (hrec.rxbuf_clear hout i hi) }
  | appends _ x =>
    have hmem : ∀ i, i < s.cfg.maxPkt →
        readByte (writeByte s.mem (0x300 + s.decIdx.toNat) x) (0x200 + i) = readByte s.mem (0x200 + i) := fun i hi =>
      readByte_writeByte_ne s.mem x (by omega)
    exact { hrec with rxbuf_clear := fun hout i hi => (hmem i hi).trans (hrec.rxbuf_clear hout i hi) }
  | startsEnc _ hop | startsTxp _ hop | startsTxr _ hop =>
    exact hrec.of_not_receiving (hfree hop) nofun rfl rfl rfl rfl rfl rfl rfl
  | setsUp _ hop => exact hrec.of_not_receiving (hfree hop) (hfree hop) rfl rfl rfl rfl rfl rfl rfl
  | putsLastByte _ hop => exact hrec.of_not_receiving (by simp [hop]) nofun rfl rfl rfl rfl rfl rfl rfl
  | writesBurst ht | strobesTx ht | passesT3 ht =>
    have hne := not_rxd_of_transmitting ht
    exact hrec.of_not_receiving hne hne rfl rfl rfl rfl rfl rfl rfl
  | endsTransmit ht => exact hrec.of_not_receiving (not_rxd_of_transmitting ht) nofun rfl rfl rfl rfl rfl rfl rfl
  | timesOut _ _ hw =>
    have ht := transmitting_iff.mpr (inTxWait_iff.mp hw).1
    exact hrec.of_not_receiving (not_rxd_of_transmitting ht) nofun rfl rfl rfl rfl rfl rfl rfl
  | entersRx hop hifg hie =>
    have hvalid := hrec.pktValid_eq_false fun hrx => absurd hrx (hfree hop)
    exact { hrec with
      trigger := fun _ => ⟨hie, hifg⟩, len_fits := by simp, len_over := by simp, valid_iff := by simp [hvalid]
      rxbuf_clear := fun _ => hrec.rxbuf_clear fun hrx => hfree hop hrx.1 }
  | findsNothing _ hop hp =>
    have hvalid := hrec.pktValid_eq_false fun _ => by simp [hp]
    exact .of_x7 hop rfl (hrec.trigger hop) hvalid ⟨fun _ => ⟨rfl, rfl, rfl, rfl⟩, nofun, nofun⟩
  | findsBytes _ hop hp =>
    have hvalid := hrec.pktValid_eq_false fun _ => by simp [hp]
    exact { hrec with
      len_fits := by simp, len_over := by simp, valid_iff := by simp [hvalid]
      rxbuf_clear := fun _ => hrec.rxbuf_clear (by simp [hp]) }
  | readsFitting _ hop hp hl =>
    have hvalid := hrec.pktValid_eq_false fun _ => by simp [hp]
    exact { hrec with
      len_fits := fun _ _ => hl, len_over := by simp, valid_iff := by simp [hvalid]
      rxbuf_clear := fun _ => hrec.rxbuf_clear (by simp [hp]) }
  | readsOversize _ hop hp hl =>
    have hvalid := hrec.pktValid_eq_false fun _ => by simp [hp]
    exact { hrec with
      len_fits := by simp, len_over := fun _ _ => hl, valid_iff := by simp [hvalid]
      rxbuf_clear := fun _ => hrec.rxbuf_clear (by simp [hp]) }
  | readsPayload _ hop hp =>
    have hvalid := hrec.pktValid_eq_false fun _ => by simp [hp]
    exact { hrec with
      len_fits := fun _ _ => hrec.len_fits hop (.inl hp), len_over := by simp, valid_iff := by simp [hvalid]
      rxbuf_clear := fun hne => absurd ⟨hop, .inl rfl⟩ hne }
  | passesCrc _ q hop hp hq =>
    exact
      { trigger := hrec.trigger, len_fits := by simp, len_over := by simp, valid_iff := by simp [hop]
        valid_result := fun _ => rfl, nothing := nofun
        fits := fun _ _ => ⟨hrec.len_fits hop (.inr hp), hq.symm⟩, oversize := nofun
        rxbuf_clear := fun hne => absurd ⟨hop, .inr (.inl rfl)⟩ hne }
  | failsCrc _ _ hop hp hq =>
    have hvalid := hrec.pktValid_eq_false fun _ => by simp [hp]
    have hfits := hrec.len_fits hop (.inr hp)
    exact .of_x7 hop rfl (hrec.trigger hop) hvalid ⟨nofun, fun _ _ => ⟨hfits, hq.symm⟩, nofun⟩
  | flushes hop hp =>
    have hvalid := hrec.pktValid_eq_false fun _ => by simp [hp]
    have hover := hrec.len_over hop hp
    exact .of_x7 hop rfl (hrec.trigger hop) hvalid ⟨nofun, nofun, fun _ => ⟨rfl, hover, rfl, rfl⟩⟩
  | leavesRx hop hp =>
    have hvalid := hrec.pktValid_eq_false fun _ => by simp [hp]
    have hclear : ∀ i, i < s.cfg.maxPkt → readByte (clearBytes s.mem 0x200 s.cfg.maxPkt) (0x200 + i) = 0x00#8 :=
      fun i hi => (readByte_clearBytes _ _ _ _).trans (if_pos (by omega))
    exact { hrec with
      trigger := nofun, len_fits := nofun, len_over := nofun, valid_iff := by simp [hvalid]
      rxbuf_clear := fun _ => hclear }
  | signalFalls => exact { hrec with trigger := fun hop => ⟨(hrec.trigger hop).1, rfl⟩ }
  | resets => exact (inv_resetBlock hinv.cfg).receive
  | _ => exact { hrec with }

/-! ### The step -/

theorem MoveEffect.keepsInv {s t : State} {m : Move} (h : MoveEffect s m t) (hinv : s.Inv) : t.Inv where
  cfg := h.cfg_eq ▸ hinv.cfg
  mem := h.keepsMemInv hinv
  decoder := h.keepsDecoderInv hinv
  engine := h.keepsEngineInv hinv
  receive := h.keepsReceiveInv hinv

/-- The queue and the counter of choices are no part of a legal state. -/
theorem State.Inv.withQueue {s : State} (h : s.Inv) (ms : List Move) (n : Nat) :
    State.Inv { s with moves := ms, turn := n } where
  cfg := h.cfg
  mem := { h.mem with }
  decoder := { h.decoder with }
  engine := { h.engine with }
  receive := { h.receive with }

/-- Settles O50: each of the moves a step can take keeps every part of the invariant. -/
theorem stepKeepsTheInvariant : Obligations.StepKeepsTheInvariant := by
  intro s t hinv hstep
  rcases effect_of_step hstep with ⟨-, rfl⟩ | ⟨m, ms, -, heffect⟩ | ⟨m, -, -, heffect⟩
  · exact hinv
  · exact heffect.keepsInv (hinv.withQueue ms s.turn)
  · exact heffect.keepsInv (hinv.withQueue s.moves (s.turn + 1))

/-- Settles O51: the machine at launch is its own reset block, under parameters in range. -/
theorem launchMeetsTheInvariant : Obligations.LaunchMeetsTheInvariant :=
  inv_resetBlock (s := State.reset) (by decide)

end Sys2Proof.Machine
end

section
/-! Acknowledgements with something on offer (44_control.md R212, R214, R216): what each part of an ACK write delivers,
and the three ACK statements assembled from them. -/

namespace Sys2Proof.Machine

theorem ackFramePart_of_offer {s : State} (hf : s.frmValid = true) :
    ackFramePart s =
      { s with hist := s.hist ++ [.frame (readBytes s.mem 0x300 s.frmLen.toNat)], frmValid := false } :=
  if_pos hf

theorem ackPacketPart_of_offer {s : State} (wake : Bool) (hp : s.pktValid = true) :
    ackPacketPart wake s =
      { s with
        hist := s.hist ++
          (.packet (readBytes s.mem 0x200 s.rxLen.toNat) wake :: if wake then [Event.wake] else [])
        pktValid := false, pePhase := .x7 } := by
  rcases ackPacketPart_cases wake s with ⟨hnone, -⟩ | ⟨-, h⟩
  · simp [hp] at hnone
  · exact h

/-- Settles O32: ACK_FRM without PKT_ACK is the frame part. -/
theorem frameAckDeliversTheFrame : Obligations.FrameAckDeliversTheFrame := fun s wake hf =>
  (exec_ackFrm_alone wake s).trans (congrArg _ (ackFramePart_of_offer hf))

/-- Settles O33: ACK_PKT is the packet part. -/
theorem packetAckDeliversThePacket : Obligations.PacketAckDeliversThePacket := fun s wake hp =>
  (exec_ackPkt wake s).trans (congrArg _ (ackPacketPart_of_offer wake hp))

/-- Settles O34: the packet part acts on the state the frame part leaves, whose packet is the one on offer before. -/
theorem oneWriteMayAcknowledgeBoth : Obligations.OneWriteMayAcknowledgeBoth := by
  intro s wake hf hp
  rw [exec_ackFrm_both, ackPacketPart_of_offer wake ((ackFramePart_pktValid s).trans hp), ackFramePart_of_offer hf]
  simp only [List.append_assoc, List.singleton_append]

end Sys2Proof.Machine
end

section
/-! The history (10_state.md R47): the state under another history, each agent's move as one that reads none and adds
the same events to each, and the step assembled from them. -/

namespace Sys2Proof.Machine

/-- The state with `h` for its history. -/
def State.withHist (s : State) (h : List Event) : State := { s with hist := h }

theorem withHist_ite (h : List Event) (c : Prop) [Decidable c] (s t : State) :
    (if c then s else t).withHist h = if c then s.withHist h else t.withHist h :=
  apply_ite (State.withHist · h) c s t

/-- From `s`, the operation `f` reads no history and adds the same events to each. -/
def BlindToHistory (f : State → State) (s : State) : Prop :=
  ∃ ext, ∀ h, f (s.withHist h) = (f s).withHist (h ++ ext)

theorem BlindToHistory.of_silent {f : State → State} {s : State}
    (hf : ∀ h, f (s.withHist h) = (f s).withHist h) : BlindToHistory f s :=
  ⟨[], fun h => by rw [hf, List.append_nil]⟩

theorem BlindToHistory.trans {f g : State → State} {s : State} (hf : BlindToHistory f s)
    (hg : BlindToHistory g (f s)) : BlindToHistory (fun u => g (f u)) s := by
  obtain ⟨ext, hext⟩ := hf
  obtain ⟨ext', hext'⟩ := hg
  refine ⟨ext ++ ext', fun h => ?_⟩
  change g (f (s.withHist h)) = _
  rw [hext, hext', List.append_assoc]

/-! ### Operations that add no event -/

section
variable (s : State) (h : List Event)

theorem offerCommand_withHist (v : Byte) : offerCommand v (s.withHist h) = (offerCommand v s).withHist h := by
  unfold offerCommand
  cases opcodeOf v <;> simp only [withHist_ite] <;> rfl

theorem hostStore_withHist (a : HostAddr) (v : Byte) : hostStore a v (s.withHist h) = (hostStore a v s).withHist h := by
  simp only [hostStore, withHist_ite]
  rfl

theorem startOperation_withHist (op : Opcode) :
    startOperation op (s.withHist h) = (startOperation op s).withHist h := by
  cases op <;> rfl

theorem startCommand_withHist : startCommand (s.withHist h) = (startCommand s).withHist h := by
  have hpend : (s.withHist h).cmdPend = s.cmdPend := rfl
  simp only [startCommand, withHist_ite, hpend]
  cases s.cmdPend with
  | none => rfl
  | some c => simp only [← startOperation_withHist]; rfl

theorem peStep_withHist : peStep (s.withHist h) = (peStep s).withHist h := by
  have hphase : (s.withHist h).pePhase = s.pePhase := rfl
  unfold peStep
  rw [hphase]
  cases s.pePhase <;> simp only [withHist_ite, stepT3, stepT4, stepX7] <;> rfl

theorem srxStep_withHist (b : Byte) : srxStep b (s.withHist h) = (srxStep b s).withHist h := by
  simp only [srxStep, withHist_ite]
  rfl

theorem tickStep_withHist : tickStep (s.withHist h) = (tickStep s).withHist h := by
  have hlimit : (s.withHist h).cfg.txWaitLimit = s.cfg.txWaitLimit := rfl
  unfold tickStep
  rw [hlimit]
  cases s.cfg.txWaitLimit with
  | none => rfl
  | some n => simp only [withHist_ite]; rfl

theorem appendByte_withHist (x : Byte) : (s.withHist h).appendByte x = (s.appendByte x).withHist h := by
  simp only [State.appendByte, withHist_ite]
  rfl

theorem feedAct_withHist (st : DecState) (b : Byte) : feedAct st b (s.withHist h) = (feedAct st b s).withHist h := by
  cases st with
  | idle => simp only [feedAct]; split_ifs <;> rfl
  | receiving =>
    simp only [feedAct]
    split_ifs
    · rfl
    · rfl
    · rfl
    · exact appendByte_withHist s h b
  | escapePending => exact appendByte_withHist s h _

theorem txAdvance_withHist : txAdvance (s.withHist h) = (txAdvance s).withHist h := by
  have hphase : (s.withHist h).pePhase = s.pePhase := rfl
  unfold txAdvance
  rw [hphase]
  cases s.pePhase <;> rfl

theorem rxAdvance_withHist (data : List Byte) : rxAdvance data (s.withHist h) = (rxAdvance data s).withHist h := by
  have hphase : (s.withHist h).pePhase = s.pePhase := rfl
  unfold rxAdvance
  rw [hphase]
  cases s.pePhase <;> simp only [stepX1, withHist_ite] <;> rfl

theorem radioAdvance_withHist (data : List Byte) :
    radioAdvance data (s.withHist h) = (radioAdvance data s).withHist h := by
  simp only [radioAdvance, withHist_ite, ← rxAdvance_withHist, ← txAdvance_withHist]
  rfl

end

/-! ### Operations that add events -/

theorem encStep_blind (s : State) : BlindToHistory encStep s := by
  cases ho : serialOffer s with
  | none =>
    have hoff : ∀ h, serialOffer (s.withHist h) = none := fun _ => ho
    exact .of_silent fun h => by simp only [encStep, hoff, ho]
  | some b =>
    have hoff : ∀ h, serialOffer (s.withHist h) = some b := fun _ => ho
    refine ⟨[.serialOut b], fun h => ?_⟩
    simp only [encStep, hoff, ho, withHist_ite]
    rfl

theorem radioStep_blind (data : List Byte) (s : State) : BlindToHistory (radioStep data) s := by
  cases ho : radioOffer s with
  | none =>
    have hoff : ∀ h, radioOffer (s.withHist h) = none := fun _ => ho
    exact .of_silent fun h => by simp only [radioStep, hoff, ho]
  | some r =>
    have hoff : ∀ h, radioOffer (s.withHist h) = some r := fun _ => ho
    by_cases hl : data.length = r.count
    · refine ⟨[r.event data], fun h => ?_⟩
      simp only [radioStep, hoff, ho, if_pos hl, ← radioAdvance_withHist]
      rfl
    · exact .of_silent fun h => by simp only [radioStep, hoff, ho, if_neg hl]

theorem ackFramePart_blind (s : State) : BlindToHistory ackFramePart s := by
  cases hf : s.frmValid
  · exact .of_silent fun h => by rw [ackFramePart_of_none (s := s.withHist h) hf, ackFramePart_of_none hf]
  · refine ⟨[.frame (offeredFrame s)], fun h => ?_⟩
    rw [ackFramePart_of_offer (s := s.withHist h) hf, ackFramePart_of_offer hf]
    rfl

theorem ackPacketPart_blind (wake : Bool) (s : State) : BlindToHistory (ackPacketPart wake) s := by
  cases hp : s.pktValid
  · exact .of_silent fun h => by rw [ackPacketPart_of_none (s := s.withHist h) wake hp, ackPacketPart_of_none wake hp]
  · refine ⟨.packet (offeredPacket s) wake :: if wake then [.wake] else [], fun h => ?_⟩
    rw [ackPacketPart_of_offer (s := s.withHist h) wake hp, ackPacketPart_of_offer wake hp]
    rfl

/-! ### Moves -/

/-- From `s`, `f` answers a next state, and under another history the same state but for the history, to which the same
events are added. -/
def AnswersBlindly (f : State → Host.Outcome State Fault Refusal) (s : State) : Prop :=
  ∃ t ext, f s = .next t ∧ ∀ h, f (s.withHist h) = .next (t.withHist (h ++ ext))

section
variable {f : State → Host.Outcome State Fault Refusal} {s : State}

theorem AnswersBlindly.of_blind {g : State → State} (hg : BlindToHistory g s)
    (hf : ∀ h, f (s.withHist h) = .next (g (s.withHist h))) : AnswersBlindly f s := by
  obtain ⟨ext, hext⟩ := hg
  exact ⟨g s, ext, hf s.hist, fun h => (hf h).trans (congrArg _ (hext h))⟩

theorem AnswersBlindly.of_silent {g : State → State} (hg : ∀ h, g (s.withHist h) = (g s).withHist h)
    (hf : ∀ h, f (s.withHist h) = .next (g (s.withHist h))) : AnswersBlindly f s :=
  .of_blind (.of_silent hg) hf

/-- A move that changes nothing under any history. -/
theorem AnswersBlindly.of_unchanged (hf : ∀ h, f (s.withHist h) = .next (s.withHist h)) : AnswersBlindly f s :=
  .of_silent (g := id) (fun _ => rfl) hf

end

/-- An ACK write runs the parts its two ACK bits ask for. -/
theorem ackWrite_blind (v : Byte) (s : State) : AnswersBlindly (runMove (.hostWrite 0x004#10 v)) s := by
  have hrun := runMove_ack v
  cases h0 : v.getLsbD 0 <;> cases h1 : v.getLsbD 1 <;> rw [h0, h1] at hrun
  case false.false => exact .of_unchanged fun h => hrun _
  case false.true => exact .of_blind (ackPacketPart_blind (v.getLsbD 2) s) fun h => hrun _
  case true.false => exact .of_blind (ackFramePart_blind s) fun h => hrun _
  case true.true =>
    exact .of_blind ((ackFramePart_blind s).trans (ackPacketPart_blind (v.getLsbD 2) _)) fun h => hrun _

theorem hostWrite_blind (a : HostAddr) (v : Byte) (s : State) : AnswersBlindly (runMove (.hostWrite a v)) s := by
  by_cases hcmd : a = 0x000#10
  · subst hcmd
    exact .of_silent (offerCommand_withHist s · v) fun _ => runMove_command v _
  · by_cases hack : a = 0x004#10
    · subst hack
      exact ackWrite_blind v s
    · exact .of_silent (hostStore_withHist s · a v) fun _ => runMove_store v _ hcmd hack

theorem startRx_blind (s : State) : AnswersBlindly (runMove .startRx) s := by
  refine .of_silent (g := fun u => if canStartRx u then u.enterRx else u) (fun h => ?_) fun _ => runMove_startRx _
  rw [withHist_ite]
  rfl

theorem feed_blind (s : State) : AnswersBlindly (runMove .feed) s := by
  cases hx : s.srx with
  | none => exact .of_unchanged fun _ => runMove_feed_empty hx
  | some b =>
    refine .of_silent (g := fun u => if canFeed b u then feedAct u.decState b { u with srx := none } else u)
      (fun h => ?_) fun h => runMove_feed (s := s.withHist h) hx
    rw [withHist_ite, ← feedAct_withHist]
    rfl

theorem runMove_blind (m : Move) (s : State) : AnswersBlindly (runMove m) s := by
  cases m with
  | hostRead a =>
    exact .of_silent (g := fun u => { u with readData := some (hostRead u a) }) (fun _ => rfl) fun _ => rfl
  | hostWrite a v => exact hostWrite_blind a v s
  | startCmd => exact .of_silent (startCommand_withHist s) fun _ => runMove_startCmd _
  | startRx => exact startRx_blind s
  | stx => exact .of_blind (encStep_blind s) fun _ => runMove_stx _
  | radio data => exact .of_blind (radioStep_blind data s) fun _ => runMove_radio data _
  | pe => exact .of_silent (peStep_withHist s) fun _ => runMove_pe _
  | feed => exact feed_blind s
  | srx b => exact .of_silent (srxStep_withHist s · b) fun _ => runMove_srx b _
  | sig level => exact .of_silent (g := sigStep level) (fun _ => rfl) fun _ => runMove_sig level _
  | tick => exact .of_silent (tickStep_withHist s) fun _ => runMove_tick _
  | reset => exact .of_silent (g := State.resetBlock) (fun _ => rfl) fun _ => runMove_reset _

/-! ### The step -/

theorem ownStep_of_cons {s : State} {m : Move} {ms : List Move} (h : ownMoves s = m :: ms) :
    ownStep s =
      runMove ((m :: ms).getD (Config.freeChoice s.turn % (ms.length + 1)) m) { s with turn := s.turn + 1 } := by
  simp [ownStep, h]

theorem ownStep_of_nil {s : State} (h : ownMoves s = []) : ownStep s = .next s := by simp [ownStep, h]

/-- Which of its own steps the block takes does not depend on the history. -/
theorem ownStep_blind (s : State) : AnswersBlindly ownStep s := by
  have hown : ∀ h, ownMoves (s.withHist h) = ownMoves s := fun _ => rfl
  cases hm : ownMoves s with
  | nil => exact .of_unchanged fun h => ownStep_of_nil ((hown h).trans hm)
  | cons m ms =>
    obtain ⟨t, ext, hs, hblind⟩ := runMove_blind
      ((m :: ms).getD (Config.freeChoice s.turn % (ms.length + 1)) m) { s with turn := s.turn + 1 }
    exact ⟨t, ext, (ownStep_of_cons hm).trans hs, fun h => (ownStep_of_cons ((hown h).trans hm)).trans (hblind h)⟩

theorem step_blind (s : State) : AnswersBlindly step s := by
  cases hm : s.moves with
  | nil =>
    obtain ⟨t, ext, hs, hblind⟩ := ownStep_blind s
    exact ⟨t, ext, (step_nil hm).trans hs, fun h => (step_nil (s := s.withHist h) hm).trans (hblind h)⟩
  | cons m ms =>
    obtain ⟨t, ext, hs, hblind⟩ := runMove_blind m { s with moves := ms }
    exact ⟨t, ext, (step_queued hm).trans hs, fun h => (step_queued (s := s.withHist h) hm).trans (hblind h)⟩

/-- Settles O59: a step answers blindly, and its own history is one of the histories it may find. -/
theorem historyOnlyGrowsAndIsNeverRead : Obligations.HistoryOnlyGrowsAndIsNeverRead := by
  intro s h
  obtain ⟨t, ext, hs, hblind⟩ := step_blind s
  have hself : t = t.withHist (s.hist ++ ext) := Host.Outcome.next.inj (hs.symm.trans (hblind s.hist))
  exact ⟨t, ext, hs, congrArg State.hist hself, hblind h⟩

end Sys2Proof.Machine
end

section
/-! Encodings (30_encoding.md R82 to R88): decoding undoes encoding on well-formed instructions, encoding undoes
decoding up to ACK's ignored bits, and the words of the tables. -/

namespace Sys2Proof.Machine

/-! ### Decoding an encoding -/

theorem decodeCommand_of_illegal {op : Byte} (h : opcodeOf op = none) : decodeCommand op = .illegalOpcode op := by
  simp [decodeCommand, h]

/-- The ACK bits are read back from the byte they are written to (R84). -/
theorem decodeAck_ackByte_frm (pkt wake : Bool) : decodeAck (ackByte true pkt wake) = .ok (.ackFrm pkt wake) := by
  cases pkt <;> cases wake <;> decide

theorem decodeAck_ackByte_pkt (wake : Bool) : decodeAck (ackByte false true wake) = .ok (.ackPkt wake) := by
  cases wake <;> decide

theorem decodeTransition_idle_other {b : Byte} (h : b ≠ startByte) :
    decodeTransition .idle b = .feedIdleOther b :=
  if_neg h

theorem ne_of_plain_of_reserved {b c : Byte} (hb : reserved b = false) (hc : reserved c = true) : b ≠ c :=
  fun hbc => by simp [hbc, hc] at hb

theorem decodeTransition_recv_data {b : Byte} (h : reserved b = false) :
    decodeTransition .receiving b = .feedRecvData b := by
  simp [decodeTransition, ne_of_plain_of_reserved h (c := escByte) rfl, ne_of_plain_of_reserved h (c := startByte) rfl,
    ne_of_plain_of_reserved h (c := endByte) rfl]

/-- Settles O1: the rows with an operand by their decoding equations, the others by their one word. -/
theorem decodeOfEncodeIsTheInstruction : Obligations.DecodeOfEncodeIsTheInstruction := by
  intro i hwf
  cases i with
  | illegalOpcode op =>
    have hop : opcodeOf op = none := opcodeOf_eq_none_iff.mpr (of_decide_eq_true hwf)
    exact congrArg _ (decodeCommand_of_illegal hop)
  | ackFrm pkt wake => exact decodeAck_ackByte_frm pkt wake
  | ackPkt wake => exact decodeAck_ackByte_pkt wake
  | feedIdleOther b => exact congrArg _ (decodeTransition_idle_other (of_decide_eq_true hwf))
  | feedRecvData b => exact congrArg _ (decodeTransition_recv_data (Bool.not_eq_true' _ ▸ hwf))
  | encSend | txPacket | txRaw | setup | rxDispatch | feed | feedIdleStart | feedRecvEsc | feedRecvStart | feedRecvEnd
  | feedEscAny | reset => rfl

/-! ### Encoding what was decoded -/

theorem encode_decodeCommand (v : Byte) : encode (decodeCommand v) = .cmd v := by
  cases ho : opcodeOf v with
  | none => rw [decodeCommand_of_illegal ho]; rfl
  | some op =>
    rcases opcodeOf_eq_some_iff.mp ho with ⟨rfl, -⟩ | ⟨rfl, -⟩ | ⟨rfl, -⟩ | ⟨rfl, -⟩ <;> rfl

/-- The encoder writes the bits [2:0] the decoder reads and 0 elsewhere (R84). -/
theorem ackByte_of_bits (v : Byte) :
    ackByte (v.getLsbD 0) (v.getLsbD 1) (v.getLsbD 2) = v &&& 0x07#8 := by
  revert v
  decide

theorem encode_of_decodeAck {v : Byte} {i : Instr} (h : decodeAck v = .ok i) : encode i = .ack (v &&& 0x07#8) := by
  rw [← ackByte_of_bits]
  unfold decodeAck at h
  split_ifs at h with h0 h1 <;> cases h
  · rw [h0]; rfl
  · rw [h1, Bool.eq_false_iff.mpr h0]; rfl

theorem encode_decodeTransition (st : DecState) (b : Byte) : encode (decodeTransition st b) = .transition st b := by
  cases st with
  | idle =>
    simp only [decodeTransition]
    split_ifs with h
    · rw [h]; rfl
    · rfl
  | receiving =>
    simp only [decodeTransition]
    split_ifs with hesc hstart hend
    · rw [hesc]; rfl
    · rw [hstart]; rfl
    · rw [hend]; rfl
    · rfl
  | escapePending => rfl

/-- Settles O2: one case per kind of token. -/
theorem encodeOfDecodeKeepsEveryBit : Obligations.EncodeOfDecodeKeepsEveryBit := by
  intro t i h
  cases t with
  | cmd v => cases h; exact ⟨Laws.EncodingIsLegal.command v, encode_decodeCommand v⟩
  | ack v => exact ⟨Laws.EncodingIsLegal.acknowledgement h, encode_of_decodeAck h⟩
  | serial b => cases h; exact ⟨rfl, rfl⟩
  | transition st b => cases h; exact ⟨Laws.EncodingIsLegal.transition st b, encode_decodeTransition st b⟩
  | rxTrigger => cases h; exact ⟨rfl, rfl⟩
  | resetStep => cases h; exact ⟨rfl, rfl⟩

/-! ### The words of the tables -/

theorem decodeAck_masked (v : Byte) : decodeAck v = decodeAck (v &&& 0x07#8) := by
  simp [decodeAck]

/-- Settles O3: each word by evaluation, and ACK's bits [7:3] by the three bits its decoder reads. -/
theorem writtenOutWordsDecode : Obligations.WrittenOutWordsDecode :=
  ⟨rfl, rfl, rfl, rfl, rfl, rfl, rfl, rfl, rfl, rfl, decodeAck_masked, rfl, rfl, rfl, rfl⟩

end Sys2Proof.Machine
end

section
/-! The step as one move (40_sequencer.md R100, R112; 60_exceptions.md R230): a queued move runs its instruction, every
step answers and keeps the parameters, and each is a move that the state queues or the block enables. -/

namespace Sys2Proof.Machine

/-- Settles O4: a queued move runs the instruction it fetches; fetching reads no queue. -/
theorem stepRunsTheDecodedInstruction : Obligations.StepRunsTheDecodedInstruction := by
  intro s m ms t i hm ht hi
  have hfetch : fetchToken { s with moves := ms } m = some t := by cases m <;> exact ht
  exact (step_queued hm).trans (runMove_instr (fetchInstr_of_decode hfetch hi))

theorem step_answers_next (s : State) : ∃ t, step s = .next t := by
  rcases step_cases s with ⟨m, _, _, h⟩ | ⟨-, h⟩ | ⟨m, _, _, h⟩
  · obtain ⟨t, ht⟩ := runMove_answers_next m s.dequeue
    exact ⟨t, h.trans ht⟩
  · exact ⟨s, h⟩
  · obtain ⟨t, ht⟩ := runMove_answers_next m { s with turn := s.turn + 1 }
    exact ⟨t, h.trans ht⟩

theorem cfg_of_step {s t : State} (h : step s = .next t) : t.cfg = s.cfg := by
  rcases effect_of_step h with ⟨-, rfl⟩ | ⟨m, ms, -, heffect⟩ | ⟨m, -, -, heffect⟩
  · rfl
  · exact heffect.cfg_eq
  · exact heffect.cfg_eq

/-- Settles O5: a step answers a next state, and no move's effect is on the parameters. -/
theorem stepAnswersNextAndKeepsTheParameters : Obligations.StepAnswersNextAndKeepsTheParameters := by
  intro s
  obtain ⟨t, ht⟩ := step_answers_next s
  exact ⟨t, ht, cfg_of_step ht⟩

/-- With none of its own moves enabled the block stays as it is (R114). -/
theorem enabled_of_ownMoves_nil {s : State} (h : ownMoves s = []) {m : Move}
    (hm : m = .startCmd ∨ m = .startRx ∨ m = .pe ∨ m = .feed) : enabled s m = false := by
  rw [Bool.eq_false_iff]
  intro hen
  have hmem : m ∈ ownMoves s := mem_ownMoves.mpr ⟨hm, hen⟩
  simp [h] at hmem

/-- Settles O6: the queue is empty or not, and with it empty the block's own moves are. -/
theorem everyStepIsOneMove : Obligations.EveryStepIsOneMove := by
  intro s t hstep
  cases hm : s.moves with
  | cons m ms =>
    exact .inr ⟨m, ⟨hstep, .inl ⟨ms, hm, (step_queued hm).symm.trans hstep⟩⟩, nofun⟩
  | nil =>
    have hown : ownStep s = .next t := (step_nil hm).symm.trans hstep
    rcases ownStep_cases s with ⟨hnone, hstay⟩ | ⟨m, hmem, hrun⟩
    · exact .inl ⟨rfl, Host.Outcome.next.inj (hown.symm.trans hstay), fun m => enabled_of_ownMoves_nil hnone⟩
    · exact .inr ⟨m, ⟨hstep, .inr ⟨hm, hmem, hrun.symm.trans hown⟩⟩, fun _ => (mem_ownMoves.mp hmem).2⟩

end Sys2Proof.Machine
end

section
/-! FEED as one dispatch (43_serial_framer.md R186, R191): the row the decoder selects does what FEED does. -/

namespace Sys2Proof.Machine

/-- Settles O38: D5 is taken and acts. -/
theorem endByteCompletesTheFrame : Obligations.EndByteCompletesTheFrame := fun _ hx hf hd =>
  congrArg _ (takeTransition_of_enabled actRecvEnd hx hf hd)

/-- FEED of the byte on offer dispatches by (DEC_STATE, b) (R186). -/
theorem exec_feed_of_enabled {s : State} {b : Byte} (hx : s.srx = some b) (hf : s.frmValid = false) :
    exec (.feed b) s = .next (feedAct s.decState b { s with srx := none }) := by
  simp [exec, execFeed, canFeed, hx, hf]

theorem feedAct_receiving_plain {b : Byte} (hb : reserved b = false) : feedAct .receiving b = actRecvData b := by
  simp [feedAct, ne_of_plain_of_reserved hb (c := escByte) rfl, ne_of_plain_of_reserved hb (c := startByte) rfl,
    ne_of_plain_of_reserved hb (c := endByte) rfl]

/-- The row decoded from (DEC_STATE, b) acts as the dispatch does. -/
theorem exec_decodeTransition {s : State} {st : DecState} {b : Byte} (hx : s.srx = some b) (hf : s.frmValid = false)
    (hd : s.decState = st) : exec (decodeTransition st b) s = .next (feedAct st b { s with srx := none }) := by
  cases st with
  | idle =>
    by_cases hstart : b = startByte
    · subst hstart
      exact congrArg _ (takeTransition_of_enabled actIdleStart hx hf hd)
    · rw [decodeTransition_idle_other hstart, feedAct, if_neg hstart]
      exact congrArg _ ((if_neg hstart).trans (takeTransition_of_enabled actIdleOther hx hf hd))
  | receiving =>
    cases hb : reserved b with
    | false =>
      rw [decodeTransition_recv_data hb, feedAct_receiving_plain hb]
      exact exec_feedRecvData hb hx hf hd
    | true =>
      rcases reserved_iff.mp hb with rfl | rfl | rfl
      · exact congrArg _ (takeTransition_of_enabled actRecvEsc hx hf hd)
      · exact congrArg _ (takeTransition_of_enabled actRecvStart hx hf hd)
      · exact congrArg _ (takeTransition_of_enabled actRecvEnd hx hf hd)
  | escapePending => exact exec_feedEscAny hx hf hd

/-- A transition leaves the byte on offer, the history and PE as they are. -/
theorem feedAct_frame (st : DecState) (b : Byte) (s : State) :
    (feedAct st b s).srx = s.srx ∧ (feedAct st b s).hist = s.hist ∧ (feedAct st b s).peOp = s.peOp ∧
      (feedAct st b s).pePhase = s.pePhase := by
  rcases feedAct_cases st b s with h | h | h | h | h | ⟨x, h⟩ <;> rw [h]
  iterate 5 exact ⟨rfl, rfl, rfl, rfl⟩
  rcases appendByte_cases s x with ⟨-, happ⟩ | ⟨-, happ⟩ <;> rw [happ] <;> exact ⟨rfl, rfl, rfl, rfl⟩

/-- Settles O36: the row is the one the decoder selects, and without its byte or with a frame on offer FEED waits. -/
theorem feedDispatchesByStateAndByte : Obligations.FeedDispatchesByStateAndByte := by
  intro s b
  refine ⟨fun hx hf => ?taken, fun hwait => ?waits⟩
  case taken =>
    exact ⟨_, decodeTransition s.decState b, rfl, exec_feed_of_enabled hx hf, exec_decodeTransition hx hf rfl,
      feedAct_frame s.decState b { s with srx := none }⟩
  case waits =>
    have hcan : ¬canFeed b s = true := by
      rcases hwait with hx | hf
      · simp [canFeed, hx]
      · simp [canFeed, hf]
    exact congrArg _ (if_neg hcan)

end Sys2Proof.Machine
end

section
/-! Feeding whole bodies (43_serial_framer.md R192 to R195): the decoder while it receives, a body's byte in its escaped
form, and the round trip and the overflow property by induction on the bytes. -/

namespace Sys2Proof.Machine

theorem feedMoves_append (xs ys : List Byte) : feedMoves (xs ++ ys) = feedMoves xs ++ feedMoves ys := by
  induction xs with
  | nil => rfl
  | cons x xs ih => simp [feedMoves, ih]

theorem length_feedMoves (bs : List Byte) : (feedMoves bs).length = 2 * bs.length := by
  induction bs with
  | nil => rfl
  | cons b bs ih =>
    rw [feedMoves, List.length_cons, List.length_cons, ih, List.length_cons]
    omega

theorem RunsWithoutFrame.refl (s : State) : RunsWithoutFrame 0 s s where
  arrives := rfl
  noFrame _ _ hk := absurd hk (Nat.not_lt_zero _)

/-- The decoder in RECEIVING at index `i`, with the moves and the memory given. -/
def State.receiving (s : State) (ms : List Move) (mem : List Host.Cell) (i : Nat) : State :=
  { s with moves := ms, mem := mem, decState := .receiving, decIdx := BitVec.ofNat 8 i }

/-- An index that the capacity bounds fits DEC_IDX (R9, R35). -/
theorem toNat_ofNat_index {n : Nat} (h : n ≤ 254) : (BitVec.ofNat 8 n).toNat = n := Nat.mod_eq_of_lt (by omega)

section
variable {s : State} {ms : List Move} {mem : List Host.Cell} {i : Nat} {bs : List Byte}

/-- MASK is its own inverse, so a masked byte unmasks to the body's (R193). -/
theorem masked_masked (x : Byte) : x ^^^ escMask ^^^ escMask = x := by
  rw [BitVec.xor_assoc, BitVec.xor_self, BitVec.xor_zero]

theorem runsWithoutFrame_feedEsc (hm : s.moves = feedMoves (escByte :: bs) ++ ms) (hx : s.srx = none)
    (hf : s.frmValid = false) (hd : s.decState = .receiving) :
    RunsWithoutFrame 2 s { s with moves := feedMoves bs ++ ms, decState := .escapePending } := by
  have hbyte := runsWithoutFrame_feedByte hm hx hf
  rw [hd] at hbyte
  exact hbyte

/-- Any byte in ESCAPE_PENDING is stored unmasked when there is room (R193). -/
theorem runsWithoutFrame_feedMasked {b : Byte} (hm : s.moves = feedMoves (b :: bs) ++ ms) (hx : s.srx = none)
    (hf : s.frmValid = false) (hd : s.decState = .escapePending) (hroom : s.decIdx.toNat < s.cfg.maxPkt) :
    RunsWithoutFrame 2 s
      { s with
        moves := feedMoves bs ++ ms, mem := writeByte s.mem (0x300 + s.decIdx.toNat) (b ^^^ escMask)
        decIdx := s.decIdx + 0x01#8, decState := .receiving } := by
  have hbyte := runsWithoutFrame_feedByte hm hx hf
  rw [hd] at hbyte
  rwa [← appendByte_of_room (s := { s with moves := feedMoves bs ++ ms }) (b ^^^ escMask) hroom]

/-- A byte of a body, escaped where it is reserved, is stored in ACC where there is room. -/
theorem runsWithoutFrame_feedEscaped (x : Byte) (hx : s.srx = none) (hf : s.frmValid = false)
    (hcap : s.cfg.maxPkt ≤ 254) (hi : i < s.cfg.maxPkt) :
    RunsWithoutFrame (feedMoves (escape x)).length (s.receiving (feedMoves (escape x ++ bs) ++ ms) mem i)
      (s.receiving (feedMoves bs ++ ms) (writeByte mem (0x300 + i) x) (i + 1)) := by
  have hidx : (BitVec.ofNat 8 i).toNat = i := toNat_ofNat_index (by omega)
  have hroom : (BitVec.ofNat 8 i).toNat < s.cfg.maxPkt := by omega
  have hnext : s.receiving (feedMoves bs ++ ms) (writeByte mem (0x300 + i) x) (i + 1) =
      { s with
        moves := feedMoves bs ++ ms, mem := writeByte mem (0x300 + (BitVec.ofNat 8 i).toNat) x
        decIdx := BitVec.ofNat 8 i + 0x01#8, decState := .receiving } := by
    rw [hidx, ← BitVec.ofNat_add]
    rfl
  rw [hnext]
  cases hres : reserved x with
  | false =>
    rw [escape_of_plain hres]
    exact runsWithoutFrame_feedData (s := s.receiving _ mem i) rfl hx hf rfl hres hroom
  | true =>
    rw [escape_of_reserved hres]
    have hesc := runsWithoutFrame_feedEsc (s := s.receiving _ mem i) (bs := (x ^^^ escMask) :: bs) (ms := ms)
      rfl hx hf rfl
    have hmasked := hesc.trans (runsWithoutFrame_feedMasked rfl hx hf rfl hroom)
    rwa [masked_masked] at hmasked

/-- An escaped body that fits is stored in ACC from the decoder's index on. -/
theorem runsWithoutFrame_feedBody (body : List Byte) (hx : s.srx = none) (hf : s.frmValid = false)
    (hcap : s.cfg.maxPkt ≤ 254) (hfits : i + body.length ≤ s.cfg.maxPkt) :
    RunsWithoutFrame (feedMoves (body.flatMap escape)).length
      (s.receiving (feedMoves (body.flatMap escape ++ bs) ++ ms) mem i)
      (s.receiving (feedMoves bs ++ ms) (writeBytes mem (0x300 + i) body) (i + body.length)) := by
  induction body generalizing i mem with
  | nil => exact .refl _
  | cons x xs ih =>
    rw [List.length_cons] at hfits
    have hbyte := runsWithoutFrame_feedEscaped (bs := xs.flatMap escape ++ bs) (ms := ms) (mem := mem) x hx hf hcap
      (show i < s.cfg.maxPkt by omega)
    have hrest := ih (i := i + 1) (mem := writeByte mem (0x300 + i) x) (by omega)
    have hrun := hbyte.trans hrest
    have hidx : i + 1 + xs.length = i + (xs.length + 1) := by omega
    rw [hidx] at hrun
    rw [List.flatMap_cons, feedMoves_append, List.length_append, List.append_assoc, List.length_cons]
    exact hrun

end

/-- Settles O41: START, the body byte by byte, END; what ACC then holds is the body. -/
theorem encodedBodyDecodesToItself : Obligations.EncodedBodyDecodesToItself := by
  intro s body ms hok hwf hf hd hx hlen hm
  obtain ⟨-, hcap, -⟩ := hok
  have hnot : s.decState ≠ .escapePending := by rcases hd with hd | hd <;> simp [hd]
  have hstart := runsWithoutFrame_feedStart (bs := body.flatMap escape ++ [endByte]) hm hx hf hnot
  have hbody := hstart.trans (runsWithoutFrame_feedBody (i := 0) (mem := s.mem) body hx hf hcap (by omega))
  have hend := hbody.trans (runsWithoutFrame_feedEnd rfl hx hf rfl)
  have hsteps : (feedMoves (encodeFrame body)).length = 2 + (feedMoves (body.flatMap escape)).length + 2 := by
    rw [encodeFrame, feedMoves_append, feedMoves_append, List.length_append, List.length_append]
    rfl
  have hfrm : (BitVec.ofNat 8 (0 + body.length)).toNat = body.length := by
    rw [Nat.zero_add, toNat_ofNat_index (by omega)]
  refine ⟨_, hsteps ▸ hend.arrives, rfl, hfrm, ?body, fun a ha => ?outside⟩
  case body => exact hfrm.symm ▸ readBytes_writeBytes hwf 0x300 body
  case outside => exact readByte_writeBytes_outside s.mem 0x300 body ha

/-! ### Overflow -/

section
variable {s : State} {ms : List Move} {b : Byte} {bs : List Byte}

/-- Outside a frame a byte other than START is discarded (R188). -/
theorem runsWithoutFrame_feedIdleOther (hm : s.moves = feedMoves (b :: bs) ++ ms) (hx : s.srx = none)
    (hf : s.frmValid = false) (hd : s.decState = .idle) (hb : b ≠ 0x7E#8) :
    RunsWithoutFrame 2 s { s with moves := feedMoves bs ++ ms } := by
  have hbyte := runsWithoutFrame_feedByte hm hx hf
  have hact : feedAct s.decState b = actIdleOther := by
    rw [hd]
    exact if_neg hb
  rwa [hact] at hbyte

theorem runsWithoutFrame_feedDiscarded (hm : s.moves = feedMoves bs ++ ms) (hx : s.srx = none)
    (hf : s.frmValid = false) (hd : s.decState = .idle) (hbs : ∀ b ∈ bs, b ≠ 0x7E#8) :
    RunsWithoutFrame (feedMoves bs).length s { s with moves := ms } := by
  induction bs generalizing s with
  | nil =>
    obtain rfl : s.moves = ms := hm
    exact .refl s
  | cons b bs ih =>
    have hbyte := runsWithoutFrame_feedIdleOther hm hx hf hd (hbs b List.mem_cons_self)
    have hrest := hbyte.trans (ih rfl hx hf hd fun c hc => hbs c (List.mem_cons_of_mem _ hc))
    rwa [Nat.add_comm] at hrest

/-- A data byte that finds ACC full drops the frame (R194). -/
theorem runsWithoutFrame_feedOverflow (hm : s.moves = feedMoves (b :: bs) ++ ms) (hx : s.srx = none)
    (hf : s.frmValid = false) (hd : s.decState = .receiving) (hb : reserved b = false)
    (hfull : s.decIdx.toNat = s.cfg.maxPkt) :
    RunsWithoutFrame 2 s { s with moves := feedMoves bs ++ ms, decState := .idle, decIdx := 0x00#8 } := by
  have hbyte := runsWithoutFrame_feedByte hm hx hf
  rwa [feedAct_data (s := { s with moves := feedMoves bs ++ ms }) hd hb,
    appendByte_of_full (s := { s with moves := feedMoves bs ++ ms }) b hfull] at hbyte

end

theorem flatMap_escape_of_plain {body : List Byte} (h : ∀ b ∈ body, reserved b = false) :
    body.flatMap escape = body := by
  induction body with
  | nil => rfl
  | cons x xs ih =>
    rw [List.flatMap_cons, escape_of_plain (h x List.mem_cons_self), ih fun b hb => h b (List.mem_cons_of_mem _ hb)]
    rfl

/-- START, `pre` to fill ACC, one byte too many, and what is left to discard. -/
theorem runsWithoutFrame_feedOverlong {s : State} {pre post : List Byte} {b : Byte} {ms : List Move}
    (hm : s.moves = feedMoves (0x7E#8 :: (pre ++ b :: (post ++ [0x7F#8]))) ++ ms) (hx : s.srx = none)
    (hf : s.frmValid = false) (hd : s.decState ≠ .escapePending) (hcap : s.cfg.maxPkt ≤ 254)
    (hpre : pre.length = s.cfg.maxPkt) (hplain : ∀ c ∈ pre ++ b :: post, reserved c = false) :
    RunsWithoutFrame (2 + (feedMoves pre).length + 2 + (feedMoves (post ++ [0x7F#8])).length) s
      { s with moves := ms, mem := writeBytes s.mem 0x300 pre, decState := .idle, decIdx := 0x00#8 } := by
  have hescape : pre.flatMap escape = pre :=
    flatMap_escape_of_plain fun c hc => hplain c (List.mem_append_left _ hc)
  have hfull : (BitVec.ofNat 8 (0 + pre.length)).toNat = s.cfg.maxPkt := by
    rw [Nat.zero_add, toNat_ofNat_index (by omega), hpre]
  have hpost : ∀ c ∈ post ++ [0x7F#8], c ≠ 0x7E#8 := fun c hc => by
    rcases List.mem_append.mp hc with hc | hc
    · exact ne_of_plain_of_reserved (hplain c (List.mem_append_right pre (List.mem_cons_of_mem b hc))) rfl
    · rw [List.mem_singleton.mp hc]
      decide
  have hstart := runsWithoutFrame_feedStart hm hx hf hd
  have hbody := runsWithoutFrame_feedBody (s := s) (bs := b :: (post ++ [0x7F#8])) (ms := ms) (i := 0) (mem := s.mem)
    pre hx hf hcap (by omega)
  rw [hescape] at hbody
  have hfilled := hstart.trans hbody
  have hover := hfilled.trans (runsWithoutFrame_feedOverflow rfl hx hf rfl (hplain b (by simp)) hfull)
  exact hover.trans (runsWithoutFrame_feedDiscarded rfl hx hf rfl hpost)

/-- Settles O43: the bytes are those that fill ACC, the one that overflows, and the rest. -/
theorem overlongFrameIsDiscarded : Obligations.OverlongFrameIsDiscarded := by
  intro s body ms hok hf hd hx hplain hlen hm
  obtain ⟨-, hcap, -⟩ := hok
  obtain ⟨pre, b, post, rfl, hpre⟩ : ∃ pre b post, body = pre ++ b :: post ∧ pre.length = s.cfg.maxPkt :=
    ⟨body.take s.cfg.maxPkt, body[s.cfg.maxPkt], body.drop (s.cfg.maxPkt + 1), by simp, by simp; omega⟩
  have hrun := runsWithoutFrame_feedOverlong (post := post) (b := b) (ms := ms) (by simpa using hm) hx hf hd hcap hpre
    hplain
  have hsteps : (feedMoves ([0x7E#8] ++ (pre ++ b :: post) ++ [0x7F#8])).length =
      2 + (feedMoves pre).length + 2 + (feedMoves (post ++ [0x7F#8])).length := by
    simp only [length_feedMoves, List.length_append, List.length_cons, List.length_nil]
    omega
  rw [hsteps]
  refine ⟨fun k u hk hu => ?noFrame, _, hrun.arrives, rfl, fun a ha => ?outside⟩
  case noFrame =>
    rcases Nat.lt_or_eq_of_le hk with hlt | rfl
    · exact hrun.noFrame k u hlt hu
    · cases hrun.arrives.symm.trans hu
      exact hf
  case outside => exact readByte_writeBytes_outside s.mem 0x300 pre (hpre ▸ ha)

end Sys2Proof.Machine
end

section
/-! Who writes what (10_state.md R27 to R32, R41; 20_memory.md R76, R78): the moves that change BUSY, ERR, IE, IFG,
PKT_VALID and a command's operands, and what stands still while a frame or packet is on offer. Each is read off the
effects of a move. -/

namespace Sys2Proof.Machine

/-- The end of a transmit at T4 (41_packet_tx.md R138, R139). -/
def EndsTransmit (s : State) (m : Move) : Prop :=
  m = .pe ∧ (s.peOp = .txp ∨ s.peOp = .txr) ∧ s.pePhase = .t4 ∧ s.pktSig = false

/-- The timeout of a transmit, which leads to `t` (41_packet_tx.md R140). -/
def TimesOutTransmit (s : State) (m : Move) (t : State) : Prop :=
  m = .tick ∧ (s.peOp = .txp ∨ s.peOp = .txr) ∧ (s.pePhase = .t3 ∨ s.pePhase = .t4) ∧ t.err = .txTimeout

section
variable {s t : State} {m : Move}

/-! ### BUSY and ERR -/

theorem MoveEffect.busy_rises (h : MoveEffect s m t) (hs : s.busy = false) (ht : t.busy = true) :
    t.err = .none ∧ ∃ v op, m = .hostWrite 0x000#10 v ∧ t.cmdPend = some ⟨op, s.argLen, s.argDest⟩ := by
  cases h with
  | accepts v op => exact ⟨rfl, v, op, rfl, rfl⟩
  | setsUp | putsLastByte | endsTransmit | timesOut | resets => exact nomatch ht
  | _ => exact nomatch hs.symm.trans ht

theorem MoveEffect.busy_falls (h : MoveEffect s m t) (hs : s.busy = true) (ht : t.busy = false) :
    (m = .stx ∧ s.peOp = .enc ∧ s.peI + 1 = (encodedSrc s).length) ∨ EndsTransmit s m ∨ TimesOutTransmit s m t ∨
      (m = .startCmd ∧ s.peOp = .none ∧ ∃ c, s.cmdPend = some c ∧ c.op = .setup) ∨ m = .reset := by
  cases h with
  | putsLastByte _ hop _ hlast => exact .inl ⟨rfl, hop, hlast⟩
  | endsTransmit htx hp hsig => exact .inr (.inl ⟨rfl, transmitting_iff.mp htx, hp, hsig⟩)
  | timesOut _ _ hw =>
    obtain ⟨hop, hp⟩ := inTxWait_iff.mp hw
    exact .inr (.inr (.inl ⟨rfl, hop, hp, rfl⟩))
  | setsUp c hop hc ho => exact .inr (.inr (.inr (.inl ⟨rfl, hop, c, hc, ho⟩)))
  | resets => exact .inr (.inr (.inr (.inr rfl)))
  | accepts => exact nomatch ht
  | _ => exact nomatch hs.symm.trans ht

theorem MoveEffect.err_changes (h : MoveEffect s m t) (hne : t.err ≠ s.err) :
    (s.busy = false ∧ t.err ≠ .txTimeout ∧ ∃ v, m = .hostWrite 0x000#10 v) ∨
      (m = .tick ∧ t.err = .txTimeout ∧ (s.peOp = .txp ∨ s.peOp = .txr) ∧ (s.pePhase = .t3 ∨ s.pePhase = .t4)) ∨
      m = .reset := by
  cases h with
  | badOpcode v hb | badLen v _ hb | accepts v _ hb => exact .inl ⟨hb, nofun, v, rfl⟩
  | timesOut _ _ hw => exact .inr (.inl ⟨rfl, rfl, inTxWait_iff.mp hw⟩)
  | resets => exact .inr (.inr rfl)
  | _ => exact absurd rfl hne

/-! ### IE and IFG -/

theorem MoveEffect.ie_rises (h : MoveEffect s m t) (hs : s.ie = false) (ht : t.ie = true) :
    (m = .startCmd ∧ s.peOp = .none ∧ ∃ c, s.cmdPend = some c ∧ c.op = .setup) ∨ EndsTransmit s m ∨
      TimesOutTransmit s m t := by
  cases h with
  | setsUp c hop hc ho => exact .inl ⟨rfl, hop, c, hc, ho⟩
  | endsTransmit htx hp hsig => exact .inr (.inl ⟨rfl, transmitting_iff.mp htx, hp, hsig⟩)
  | timesOut _ _ hw =>
    obtain ⟨hop, hp⟩ := inTxWait_iff.mp hw
    exact .inr (.inr ⟨rfl, hop, hp, rfl⟩)
  | startsTxp | startsTxr | resets => exact nomatch ht
  | _ => exact nomatch hs.symm.trans ht

theorem MoveEffect.ie_falls (h : MoveEffect s m t) (hs : s.ie = true) (ht : t.ie = false) :
    (m = .startCmd ∧ s.peOp = .none ∧ ∃ c, s.cmdPend = some c ∧ (c.op = .txPacket ∨ c.op = .txRaw)) ∨
      m = .reset := by
  cases h with
  | startsTxp c hop hc ho => exact .inl ⟨rfl, hop, c, hc, .inl ho⟩
  | startsTxr c hop hc ho => exact .inl ⟨rfl, hop, c, hc, .inr ho⟩
  | resets => exact .inr rfl
  | setsUp | endsTransmit | timesOut => exact nomatch ht
  | _ => exact nomatch hs.symm.trans ht

theorem MoveEffect.ifg_rises (h : MoveEffect s m t) (hs : s.ifg = false) (ht : t.ifg = true) :
    m = .sig false ∧ s.pktSig = true := by
  cases h with
  | signalFalls hsig => exact ⟨rfl, hsig⟩
  | endsTransmit | leavesRx | timesOut | resets => exact nomatch ht
  | _ => exact nomatch hs.symm.trans ht

theorem MoveEffect.ifg_falls (h : MoveEffect s m t) (hs : s.ifg = true) (ht : t.ifg = false) :
    EndsTransmit s m ∨ (m = .pe ∧ s.peOp = .rxd ∧ s.pePhase = .x7) ∨ TimesOutTransmit s m t ∨ m = .reset := by
  cases h with
  | endsTransmit htx hp hsig => exact .inl ⟨rfl, transmitting_iff.mp htx, hp, hsig⟩
  | leavesRx hop hp => exact .inr (.inl ⟨rfl, hop, hp⟩)
  | timesOut _ _ hw =>
    obtain ⟨hop, hp⟩ := inTxWait_iff.mp hw
    exact .inr (.inr (.inl ⟨rfl, hop, hp, rfl⟩))
  | resets => exact .inr (.inr (.inr rfl))
  | signalFalls => exact nomatch ht
  | _ => exact nomatch hs.symm.trans ht

/-! ### PKT_VALID -/

theorem MoveEffect.pktValid_rises (h : MoveEffect s m t) (hs : s.pktValid = false) (ht : t.pktValid = true) :
    s.peOp = .rxd ∧ s.pePhase = .x4 ∧ ∃ r q, m = .radio [r, q] ∧ q.getLsbD 7 = true := by
  cases h with
  | passesCrc r q hop hp hq => exact ⟨hop, hp, r, q, rfl, hq⟩
  | acksPacket | acksBoth | resets => exact nomatch ht
  | _ => exact nomatch hs.symm.trans ht

theorem MoveEffect.pktValid_falls (h : MoveEffect s m t) (hs : s.pktValid = true) (ht : t.pktValid = false) :
    m = .reset ∨ ∃ v : Byte, m = .hostWrite 0x004#10 v ∧ v.getLsbD 1 = true := by
  cases h with
  | acksPacket v _ hack | acksBoth v _ _ hack => exact .inr ⟨v, rfl, hack⟩
  | resets => exact .inl rfl
  | passesCrc => exact nomatch ht
  | _ => exact nomatch hs.symm.trans ht

/-! ### The operands -/

theorem MoveEffect.argLen_changes (h : MoveEffect s m t) (hreset : m ≠ .reset) (hne : t.argLen ≠ s.argLen) :
    s.busy = false ∧ m = .hostWrite 0x001#10 t.argLen := by
  cases h with
  | storesLen v hb => exact ⟨hb, rfl⟩
  | resets => exact absurd rfl hreset
  | _ => exact absurd rfl hne

theorem MoveEffect.argDest_changes (h : MoveEffect s m t) (hreset : m ≠ .reset) (hne : t.argDest ≠ s.argDest) :
    s.busy = false ∧ m = .hostWrite 0x002#10 t.argDest := by
  cases h with
  | storesDest v hb => exact ⟨hb, rfl⟩
  | resets => exact absurd rfl hreset
  | _ => exact absurd rfl hne

/-- A byte below RXBUF changes only by the store to its address. -/
theorem MoveEffect.src_changes (h : MoveEffect s m t) (hreset : m ≠ .reset) {b : Nat} (hb : b < 0x200)
    (hne : readByte t.mem b ≠ readByte s.mem b) :
    s.busy = false ∧ ∃ (a : HostAddr) (v : Byte), m = .hostWrite a v ∧ a.toNat = b := by
  cases h with
  | storesSrc a v hbusy =>
    refine ⟨hbusy, a, v, rfl, ?_⟩
    by_contra hab
    exact hne (readByte_writeByte_ne s.mem v (Ne.symm hab))
  | readsPayload data => exact absurd (readByte_writeBytes_outside s.mem 0x200 data (.inl hb)) hne
  | leavesRx => exact absurd ((readByte_clearBytes s.mem 0x200 _ b).trans (if_neg (by omega))) hne
  | appends _ x => exact absurd (readByte_writeByte_ne s.mem x (by show b ≠ 0x300 + _; omega)) hne
  | resets => exact absurd rfl hreset
  | _ => exact absurd rfl hne

/-! ### Deliveries -/

theorem KeepsDecoder.refl (s : State) : KeepsDecoder s s := ⟨rfl, rfl, rfl, id, fun _ _ => rfl⟩

/-- FEED waits while a frame is on offer (R186). -/
theorem MoveEffect.feed_waits (h : MoveEffect s .feed t) (hs : s.frmValid = true) : t = s := by
  cases h with
  | waits => rfl
  | startsFrame _ _ hf | discardsByte _ _ hf | holdsEscape _ _ hf | endsFrame _ _ hf | appends _ _ _ hf
  | overflows _ _ hf => exact nomatch hs.symm.trans hf

/-- While a frame stays on offer no FEED acts and no RESET does, and no other move writes the decoder. -/
theorem MoveEffect.frame_stands (h : MoveEffect s m t) (hcap : s.cfg.maxPkt ≤ 254) (hs : s.frmValid = true)
    (ht : t.frmValid = true) : KeepsDecoder s t := by
  by_cases hfeed : m = .feed
  · subst hfeed
    exact h.feed_waits hs ▸ .refl s
  · by_cases hreset : m = .reset
    · subst hreset
      cases h with
      | waits => exact .refl s
      | resets => exact nomatch ht
    · exact h.keepsDecoder hcap hfeed hreset

/-- `t` has the packet of `s`: the RX registers and every byte of RXBUF's window. -/
structure KeepsPacket (s t : State) : Prop where
  rxResult : t.rxResult = s.rxResult
  rxLen : t.rxLen = s.rxLen
  rxRssi : t.rxRssi = s.rxRssi
  rxLqiCrc : t.rxLqiCrc = s.rxLqiCrc
  rxbuf : ∀ b, 0x200 ≤ b → b < 0x300 → readByte t.mem b = readByte s.mem b

/-- A packet on offer has PE wait at X6, where no step of RX_DISPATCH writes the RX registers or RXBUF. -/
theorem MoveEffect.packet_stands (h : MoveEffect s m t) (hcap : s.cfg.maxPkt ≤ 254) (hp6 : s.pePhase = .x6)
    (ht : t.pktValid = true) : KeepsPacket s t := by
  cases h with
  | findsNothing _ _ hp | readsPayload _ _ hp | passesCrc _ _ _ hp | failsCrc _ _ _ hp | flushes _ hp
  | leavesRx _ hp => exact nomatch hp6.symm.trans hp
  | acksPacket | acksBoth | resets => exact nomatch ht
  | storesSrc a v _ hsrc =>
    obtain ⟨-, hlt⟩ := (isSrcAddr_iff hcap).mp hsrc
    exact ⟨rfl, rfl, rfl, rfl, fun b hb _ => readByte_writeByte_ne s.mem v (by omega)⟩
  | appends _ x =>
    have hne : ∀ b, b < 0x300 → b ≠ 0x300 + s.decIdx.toNat := fun b hb => by omega
    exact ⟨rfl, rfl, rfl, rfl, fun b _ hb => readByte_writeByte_ne s.mem x (hne b hb)⟩
  | _ => exact ⟨rfl, rfl, rfl, rfl, fun _ _ _ => rfl⟩

end

/-! ### The statements -/

/-- Settles O55: each clause is read off the effect of the step's move. -/
theorem busyAndErrorHaveOnlyTheirWriters : Obligations.BusyAndErrorHaveOnlyTheirWriters := by
  intro s t m htakes
  obtain ⟨ms, n, heffect⟩ := htakes.effect
  exact ⟨heffect.busy_rises, heffect.busy_falls, heffect.err_changes⟩

/-- Settles O56: IE's rise and fall, read off the effect of the step's move. -/
theorem enableBitHasOnlyItsWriters : Obligations.EnableBitHasOnlyItsWriters := by
  intro s t m htakes
  obtain ⟨ms, n, heffect⟩ := htakes.effect
  exact ⟨heffect.ie_rises, heffect.ie_falls⟩

/-- Settles O57: IFG's rise and fall, read off the effect of the step's move. -/
theorem edgeLatchHasOnlyItsWriters : Obligations.EdgeLatchHasOnlyItsWriters := by
  intro s t m htakes
  obtain ⟨ms, n, heffect⟩ := htakes.effect
  exact ⟨heffect.ifg_rises, heffect.ifg_falls⟩

/-- Settles O31: PKT_VALID's rise and fall, read off the effect of the step's move. -/
theorem packetIsOfferedOnlyByTheCrcGate : Obligations.PacketIsOfferedOnlyByTheCrcGate := by
  intro s t m htakes
  obtain ⟨ms, n, heffect⟩ := htakes.effect
  exact ⟨heffect.pktValid_rises, heffect.pktValid_falls⟩

/-- Settles O53: each operand's change is a store's effect; SRC's addresses are below RXBUF. -/
theorem operandsChangeOnlyByHostWritesWhileIdle : Obligations.OperandsChangeOnlyByHostWritesWhileIdle := by
  intro s t m htakes hreset
  obtain ⟨ms, n, heffect⟩ := htakes.effect
  exact ⟨heffect.argLen_changes hreset, heffect.argDest_changes hreset,
    fun i hi hne => heffect.src_changes hreset (by omega) hne⟩

/-- What a step does to the frame and the packet on offer, for each move it can take. -/
theorem deliveries_stand_of_step {s t : State} (hinv : s.Inv) (hstep : step s = .next t) :
    (s.frmValid = true → t.frmValid = true → KeepsDecoder s t) ∧
      (s.pktValid = true → t.pktValid = true → KeepsPacket s t) := by
  obtain ⟨-, hcap, -⟩ := hinv.cfg
  have hp6 : s.pktValid = true → s.pePhase = .x6 := fun hv => (hinv.receive.valid_iff.mp hv).2
  have hmove : ∀ {m ms n}, MoveEffect { s with moves := ms, turn := n } m t →
      (s.frmValid = true → t.frmValid = true → KeepsDecoder s t) ∧
        (s.pktValid = true → t.pktValid = true → KeepsPacket s t) := fun heffect =>
    ⟨fun hs ht => { heffect.frame_stands hcap hs ht with },
      fun hs ht => { heffect.packet_stands hcap (hp6 hs) ht with }⟩
  rcases effect_of_step hstep with ⟨-, rfl⟩ | ⟨m, ms, -, heffect⟩ | ⟨m, -, -, heffect⟩
  · exact ⟨fun _ _ => .refl t, fun _ _ => ⟨rfl, rfl, rfl, rfl, fun _ _ _ => rfl⟩⟩
  · exact hmove heffect
  · exact hmove heffect

/-- Settles O54: ACC is part of what the decoder keeps, RXBUF of what the packet does. -/
theorem deliveriesStandStillWhileOnOffer : Obligations.DeliveriesStandStillWhileOnOffer := by
  intro s t hinv hstep
  obtain ⟨-, hcap, -⟩ := hinv.cfg
  obtain ⟨hframe, hpacket⟩ := deliveries_stand_of_step hinv hstep
  refine ⟨fun hs ht => ?frame, fun hs ht => ?packet⟩
  case frame =>
    have hkeeps := hframe hs ht
    exact ⟨hkeeps.frmLen, hkeeps.decState, hkeeps.decIdx, fun i _ => hkeeps.acc _ (by omega)⟩
  case packet =>
    have hkeeps := hpacket hs ht
    exact ⟨hkeeps.rxResult, hkeeps.rxLen, hkeeps.rxRssi, hkeeps.rxLqiCrc,
      fun i hi => hkeeps.rxbuf _ (by omega) (by omega)⟩

end Sys2Proof.Machine
end

section
/-! Commands accepted and started (40_sequencer.md R102 to R109; 42_packet_rx.md R153): a legal command's offer,
START_CMD's script, and START_RX. -/

namespace Sys2Proof.Machine

theorem exec_setup (s : State) : exec .setup s = .next (offerCommand 0x04#8 s) := rfl

/-- Settles O8: each row offers its opcode, and the length given is within that opcode's bounds. -/
theorem legalCommandIsAccepted : Obligations.LegalCommandIsAccepted := by
  intro s hb
  rw [exec_encSend, exec_txPacket, exec_txRaw, exec_setup]
  refine ⟨fun hlen => ?encSend, fun hlen => ?txPacket, fun hlo hhi => ?txRaw, ?setup⟩
  case encSend => exact congrArg _ (offerCommand_of_legal hb rfl (lenOk_encSend_iff.mpr hlen))
  case txPacket => exact congrArg _ (offerCommand_of_legal hb rfl (lenOk_txPacket_iff.mpr hlen))
  case txRaw => exact congrArg _ (offerCommand_of_legal hb rfl (lenOk_txRaw_iff.mpr ⟨hlo, hhi⟩))
  case setup => exact congrArg _ (offerCommand_of_legal hb rfl rfl)

/-! ### START_CMD -/

/-- With PE free, START_CMD takes the pending command and starts its operation (R106). -/
theorem startCommand_of_pending {s : State} {c : PendCmd} (hop : s.peOp = .none) (hc : s.cmdPend = some c) :
    startCommand s = startOperation c.op { s with cmdPend := none, peLen := c.len, peDest := c.dest } := by
  simp [startCommand, canStartCmd, hop, hc]

/-- While an operation runs, START_CMD waits (R104). -/
theorem startCommand_of_running {s : State} (hop : s.peOp ≠ .none) : startCommand s = s := by
  simp [startCommand, canStartCmd, hop]

theorem step_startCmd {s : State} {ms : List Move} (hm : s.moves = .startCmd :: ms) :
    step s = .next (startCommand { s with moves := ms }) :=
  (step_queued hm).trans (runMove_startCmd _)

/-- Settles O12: the pending command is taken, and each opcode's operation started. -/
theorem startCommandFollowsItsScript : Obligations.StartCommandFollowsItsScript := by
  intro s op len dest ms hm hop hc
  rw [step_startCmd hm, startCommand_of_pending (s := { s with moves := ms }) hop hc]
  cases op <;> rfl

/-! ### START_RX -/

theorem canStartRx_iff {s : State} : canStartRx s = true ↔ s.peOp = .none ∧ s.ifg = true ∧ s.ie = true := by
  simp [canStartRx, and_assoc]

theorem step_startRx {s : State} {ms : List Move} (hm : s.moves = .startRx :: ms) :
    step s = exec .rxDispatch { s with moves := ms } :=
  step_queued hm

/-- RX_DISPATCH is entered on its trigger (R107, R153). -/
theorem exec_rxDispatch_of_trigger {s : State} (hop : s.peOp = .none) (hifg : s.ifg = true) (hie : s.ie = true) :
    exec .rxDispatch s = .next { s with peOp := .rxd, pePhase := .x1 } :=
  congrArg _ (if_pos (canStartRx_iff.mpr ⟨hop, hifg, hie⟩))

theorem exec_rxDispatch_of_not_enabled {s : State} (h : ¬canStartRx s = true) : exec .rxDispatch s = .next s :=
  congrArg _ (if_neg h)

/-- Settles O22: with the trigger and without it. -/
theorem rxDispatchEntersOnItsTrigger : Obligations.RxDispatchEntersOnItsTrigger := by
  intro s
  refine ⟨exec_rxDispatch_of_trigger, fun hno => exec_rxDispatch_of_not_enabled ?_⟩
  rw [canStartRx_iff]
  rintro ⟨hop, hifg, hie⟩
  simp [hop, hifg, hie] at hno

/-- What a started command leaves of the queue of PE: nothing pending, and PE busy unless it was SETUP. -/
theorem startOperation_peOp (op : Opcode) (s : State) :
    (startOperation op s).cmdPend = s.cmdPend ∧ (op ≠ .setup → (startOperation op s).peOp ≠ .none) := by
  cases op <;> simp [startOperation]

/-- Settles O13: while PE is busy neither start is enabled; when it is free both are. -/
theorem oneOperationAtATimeInEitherOrder : Obligations.OneOperationAtATimeInEitherOrder := by
  refine ⟨fun s ms hop hm => ?running, fun s c ms hop hc hifg hie => ⟨fun hm => ?command, fun hm => ?reception⟩⟩
  case running =>
    rcases hm with hm | hm
    · rw [step_startCmd hm, startCommand_of_running (s := { s with moves := ms }) hop]
    · rw [step_startRx hm]
      exact exec_rxDispatch_of_not_enabled fun h => hop (canStartRx_iff.mp h).1
  case command =>
    have hstart := startCommand_of_pending (s := { s with moves := ms }) hop hc
    exact ⟨_, (step_startCmd hm).trans (congrArg _ hstart), startOperation_peOp c.op _⟩
  case reception =>
    rw [step_startRx hm]
    exact exec_rxDispatch_of_trigger (s := { s with moves := ms }) hop hifg hie

end Sys2Proof.Machine
end

section
/-! The serial output of ENC_SEND (43_serial_framer.md R181, R182): one byte a step, and the whole operation by
induction on the bytes still to go. -/

namespace Sys2Proof.Machine

theorem step_stx {s : State} {ms : List Move} (hm : s.moves = .stx :: ms) :
    step s = .next (encStep { s with moves := ms }) :=
  (step_queued hm).trans (runMove_stx _)

theorem encStep_of_offer {s : State} {b : Byte} (hop : s.peOp = .enc) (hb : (encodedSrc s)[s.peI]? = some b) :
    encStep s =
      if s.peI + 1 = (encodedSrc s).length then
        { s with hist := s.hist ++ [.serialOut b], peI := s.peI + 1, busy := false, peOp := .none }
      else { s with hist := s.hist ++ [.serialOut b], peI := s.peI + 1 } := by
  have hoffer : serialOffer s = some b := (if_pos hop).trans hb
  simp only [encStep, hoffer]
  rfl

/-- Settles O15: the byte PE offers is e[pe_i]. -/
theorem encoderPutsOneByteAStep : Obligations.EncoderPutsOneByteAStep := fun s ms _ hm hop hb =>
  (step_stx hm).trans (congrArg _ (encStep_of_offer (s := { s with moves := ms }) hop hb))

theorem run_one {s t : State} (h : step s = .next t) : run 1 s = .next t := run_succ 0 h

theorem run_trans {m n : Nat} {s u t : State} (h1 : run m s = .next u) (h2 : run n u = .next t) :
    run (m + n) s = .next t :=
  (run_add n h1).trans h2

/-- One STX step with more bytes to go, or with the last one. -/
theorem step_stx_of_enc {s : State} {ms : List Move} (hm : s.moves = .stx :: ms) (hop : s.peOp = .enc)
    (hlt : s.peI < (encodedSrc s).length) :
    step s = .next (
      if s.peI + 1 = (encodedSrc s).length then
        { s with
          moves := ms, hist := s.hist ++ [.serialOut (encodedSrc s)[s.peI]], peI := s.peI + 1, busy := false
          peOp := .none }
      else { s with moves := ms, hist := s.hist ++ [.serialOut (encodedSrc s)[s.peI]], peI := s.peI + 1 }) :=
  (step_stx hm).trans
    (congrArg _ (encStep_of_offer (s := { s with moves := ms }) hop (List.getElem?_eq_getElem hlt)))

/-- With `k + 1` bytes still to go, `k + 1` steps of STX put them out and complete the command. -/
theorem run_stx {s : State} {k : Nat} {ms : List Move} (hop : s.peOp = .enc)
    (hlen : s.peI + (k + 1) = (encodedSrc s).length) (hm : s.moves = List.replicate (k + 1) .stx ++ ms) :
    run (k + 1) s = .next { s with
      moves := ms, busy := false, peOp := .none, peI := (encodedSrc s).length
      hist := s.hist ++ ((encodedSrc s).drop s.peI).map .serialOut } := by
  induction k generalizing s with
  | zero =>
    have hlt : s.peI < (encodedSrc s).length := by omega
    have hlast : (encodedSrc s).drop (s.peI + 1) = [] := List.drop_eq_nil_of_le (by omega)
    have hstep := step_stx_of_enc hm hop hlt
    rw [if_pos hlen, hlen] at hstep
    rw [List.drop_eq_getElem_cons hlt, hlast]
    exact run_one hstep
  | succ k ih =>
    have hlt : s.peI < (encodedSrc s).length := by omega
    have hstep := step_stx_of_enc (ms := List.replicate (k + 1) .stx ++ ms) hm hop hlt
    rw [if_neg (by omega)] at hstep
    rw [run_succ (k + 1) hstep, List.drop_eq_getElem_cons hlt]
    have hrest := ih (s := { s with
      moves := List.replicate (k + 1) .stx ++ ms, hist := s.hist ++ [.serialOut (encodedSrc s)[s.peI]]
      peI := s.peI + 1 }) hop ((Nat.add_right_comm s.peI 1 (k + 1)).trans hlen) rfl
    rw [hrest, List.append_assoc]
    rfl

/-- A legal command is accepted and, with PE free, started. -/
theorem run_command_start {s : State} {v : Byte} {op : Opcode} {ms : List Move} (hb : s.busy = false)
    (hop : s.peOp = .none) (ho : opcodeOf v = some op) (hl : lenOk s.cfg op s.argLen = true)
    (hm : s.moves = .hostWrite 0x000#10 v :: .startCmd :: ms) :
    run 2 s = .next (startOperation op { s with
      moves := ms, err := .none, busy := true, cmdPend := none, peLen := s.argLen, peDest := s.argDest }) := by
  have hoffer := (step_command hm).trans
    (congrArg _ (offerCommand_of_legal (s := { s with moves := .startCmd :: ms }) hb ho hl))
  have hstart := startCommand_of_pending (c := ⟨op, s.argLen, s.argDest⟩)
    (s := { s with
      moves := ms, err := .none, busy := true, cmdPend := some ⟨op, s.argLen, s.argDest⟩ }) hop rfl
  exact run_trans (run_one hoffer) (run_one ((step_startCmd rfl).trans (congrArg _ hstart)))

/-- Settles O16: accepted and started, the encoder has every byte of its frame still to go. -/
theorem encSendSendsItsEncodedFrame : Obligations.EncSendSendsItsEncodedFrame := by
  intro s e ms hb hop hlen he hm
  subst he
  have hpos := length_encodeFrame (readBytes s.mem 0x100 s.argLen.toNat)
  obtain ⟨k, hk⟩ : ∃ k, (encodeFrame (readBytes s.mem 0x100 s.argLen.toNat)).length = k + 1 :=
    Nat.exists_eq_add_one.mpr (by omega)
  rw [hk] at hm ⊢
  have hstart := run_command_start hb hop rfl (lenOk_encSend_iff.mpr hlen) hm
  have hput := run_stx (s := startOperation .encSend { s with
    moves := List.replicate (k + 1) .stx ++ ms, err := .none, busy := true, cmdPend := none, peLen := s.argLen
    peDest := s.argDest })
    rfl ((Nat.zero_add _).trans hk.symm) rfl
  have hrun := run_trans hstart hput
  rw [Nat.add_comm (k + 1) 2, hrun, ← hk]
  rfl

end Sys2Proof.Machine
end

section
/-! The waits and the end of a transmit (41_packet_tx.md R137 to R142): T3, T4 and the ticks, a wait that times out, and
the whole transmit from T1 to its end. -/

namespace Sys2Proof.Machine

theorem step_pe {s : State} {ms : List Move} (hm : s.moves = .pe :: ms) :
    step s = .next (peStep { s with moves := ms }) :=
  (step_queued hm).trans (runMove_pe _)

theorem step_tick {s : State} {ms : List Move} (hm : s.moves = .tick :: ms) :
    step s = .next (tickStep { s with moves := ms }) :=
  (step_queued hm).trans (runMove_tick _)

theorem step_sig {s : State} {level : Bool} {ms : List Move} (hm : s.moves = .sig level :: ms) :
    step s = .next (sigStep level { s with moves := ms }) :=
  (step_queued hm).trans (runMove_sig level _)

/-- A falling edge sets IFG (R69). -/
theorem sigStep_fall {s : State} (hsig : s.pktSig = true) :
    sigStep false s = { s with pktSig := false, ifg := true } := by
  simp [sigStep, hsig]

/-- Any other level change leaves IFG as it is (R69). -/
theorem sigStep_of_no_fall {s : State} {level : Bool} (h : ¬(s.pktSig = true ∧ level = false)) :
    sigStep level s = { s with pktSig := level } := by
  have hifg : (s.ifg || (s.pktSig && !level)) = s.ifg := by
    cases level with
    | true => simp
    | false =>
      have hsig : s.pktSig = false := Bool.eq_false_iff.mpr fun hs => h ⟨hs, rfl⟩
      simp [hsig]
  simp [sigStep, hifg]

/-! ### T3 and T4 -/

section
variable {s : State} (ht : s.peOp = .txp ∨ s.peOp = .txr)
include ht

theorem peStep_t3 (hp : s.pePhase = .t3) : peStep s = if s.pktSig then { s with pePhase := .t4 } else s := by
  have h : peStep s = stepT3 s := by simp only [peStep, hp, transmitting_iff.mpr ht, if_true]
  exact h

theorem peStep_t4 (hp : s.pePhase = .t4) :
    peStep s = if s.pktSig then s else { s with ifg := false, ie := true, busy := false, peOp := .none } := by
  have h : peStep s = stepT4 s := by simp only [peStep, hp, transmitting_iff.mpr ht, if_true]
  exact h

end

/-- Settles O18: each wait passes on its level and stays on the other. -/
theorem transmitWaitsForTheSignalLevels : Obligations.TransmitWaitsForTheSignalLevels := by
  intro s ms hm ht
  have h3 : s.pePhase = .t3 → _ := peStep_t3 (s := { s with moves := ms }) ht
  have h4 : s.pePhase = .t4 → _ := peStep_t4 (s := { s with moves := ms }) ht
  rw [step_pe hm]
  refine ⟨fun hp hsig => ?passes, fun hp hsig => ?waitsHigh, fun hp hsig => ?ends, fun hp hsig => ?waitsLow⟩
  case passes => exact congrArg _ ((h3 hp).trans (if_pos hsig))
  case waitsHigh => exact congrArg _ ((h3 hp).trans (if_neg (by simp [hsig])))
  case ends => exact congrArg _ ((h4 hp).trans (if_neg (by simp [hsig])))
  case waitsLow => exact congrArg _ ((h4 hp).trans (if_pos hsig))

/-! ### Ticks -/

theorem tickStep_of_wait {s : State} {n : Nat} (hn : s.cfg.txWaitLimit = some n) (hw : inTxWait s = true) :
    tickStep s =
      if n ≤ s.peWait + 1 then
        { s with peWait := s.peWait + 1, ifg := false, ie := true, err := .txTimeout, busy := false, peOp := .none }
      else { s with peWait := s.peWait + 1 } := by
  simp only [tickStep, hn, hw, if_true]
  rfl

theorem tickStep_of_no_wait {s : State} (h : s.cfg.txWaitLimit = none ∨ ¬inTxWait s = true) : tickStep s = s := by
  rcases tickStep_cases s with hstay | ⟨n, hn, hw, -⟩
  · exact hstay
  · simp [hn, hw] at h

/-- Settles O19: a tick in a wait with a limit, and any other. -/
theorem tickCountsOrTimesOut : Obligations.TickCountsOrTimesOut := by
  intro s ms hm
  rw [step_tick hm]
  refine ⟨fun n hn ht hp => ?waiting, fun hno => ?otherwise⟩
  case waiting => exact congrArg _ (tickStep_of_wait (s := { s with moves := ms }) hn (inTxWait_iff.mpr ⟨ht, hp⟩))
  case otherwise =>
    refine congrArg _ (tickStep_of_no_wait (hno.imp_right fun hno hw => ?_))
    obtain ⟨ht, hp⟩ := inTxWait_iff.mp hw
    exact hno.elim (absurd ht) (absurd hp)

/-- With `k + 1` ticks to go to the limit, the last of `k + 1` ticks times the transmit out. -/
theorem run_ticks {s : State} {n k : Nat} {ms : List Move} (hn : s.cfg.txWaitLimit = some n)
    (hw : inTxWait s = true) (hk : s.peWait + (k + 1) = n) (hm : s.moves = List.replicate (k + 1) .tick ++ ms) :
    run (k + 1) s = .next { s with
      moves := ms, peWait := n, ifg := false, ie := true, err := .txTimeout, busy := false, peOp := .none } := by
  induction k generalizing s with
  | zero =>
    have htick := tickStep_of_wait (s := { s with moves := ms }) hn hw
    rw [if_pos hk.ge] at htick
    subst hk
    exact run_one ((step_tick hm).trans (congrArg _ htick))
  | succ k ih =>
    have htick := tickStep_of_wait (s := { s with moves := List.replicate (k + 1) .tick ++ ms }) hn hw
    rw [if_neg (show ¬n ≤ s.peWait + 1 by omega)] at htick
    have hrest := ih (s := { s with moves := List.replicate (k + 1) .tick ++ ms, peWait := s.peWait + 1 }) hn hw
      ((Nat.add_right_comm s.peWait 1 (k + 1)).trans hk) rfl
    exact (run_succ (k + 1) ((step_tick hm).trans (congrArg _ htick))).trans hrest

/-- Settles O20: the ticks left are those between the count and the limit. -/
theorem ticksEndAWaitingTransmit : Obligations.TicksEndAWaitingTransmit := by
  intro s n ms hn ht hp hlt hm
  obtain ⟨k, hk⟩ : ∃ k, n - s.peWait = k + 1 := Nat.exists_eq_add_one.mpr (by omega)
  rw [hk] at hm ⊢
  exact run_ticks hn (inTxWait_iff.mpr ⟨ht, hp⟩) (by omega) hm

/-! ### The whole transmit -/

section
variable {s : State} {ms : List Move}

theorem step_t1 {bytes : List Byte} (hm : s.moves = .radio [] :: ms) (ht : s.peOp = .txp ∨ s.peOp = .txr)
    (hp : s.pePhase = .t1) (hb : txBytes s = bytes) :
    step s = .next { s with moves := ms, pePhase := .t2, hist := s.hist ++ [.radioWB s.cfg.aTxFifo bytes] } :=
  (step_radio hm).trans (congrArg _ (radioStep_t1 (s := { s with moves := ms }) (transmitting_iff.mpr ht) hp hb))

theorem step_t2 (hm : s.moves = .radio [] :: ms) (ht : s.peOp = .txp ∨ s.peOp = .txr) (hp : s.pePhase = .t2) :
    step s = .next { s with moves := ms, pePhase := .t3, hist := s.hist ++ [.radioST s.cfg.cmdStx] } :=
  (transmitWritesThePacketThenStrobes s ms hm).2.2 ht hp

theorem step_t3 (hm : s.moves = .pe :: ms) (ht : s.peOp = .txp ∨ s.peOp = .txr) (hp : s.pePhase = .t3)
    (hsig : s.pktSig = true) : step s = .next { s with moves := ms, pePhase := .t4 } :=
  (transmitWaitsForTheSignalLevels s ms hm ht).1 hp hsig

theorem step_t4 (hm : s.moves = .pe :: ms) (ht : s.peOp = .txp ∨ s.peOp = .txr) (hp : s.pePhase = .t4)
    (hsig : s.pktSig = false) :
    step s = .next { s with moves := ms, ifg := false, ie := true, busy := false, peOp := .none } :=
  (transmitWaitsForTheSignalLevels s ms hm ht).2.2.1 hp hsig

theorem step_sigRise (hm : s.moves = .sig true :: ms) : step s = .next { s with moves := ms, pktSig := true } :=
  (step_sig hm).trans (congrArg _ (sigStep_of_no_fall (by simp)))

theorem step_sigFall (hm : s.moves = .sig false :: ms) (hsig : s.pktSig = true) :
    step s = .next { s with moves := ms, pktSig := false, ifg := true } :=
  (step_sig hm).trans (congrArg _ (sigStep_fall hsig))

/-- The two transactions of a transmit. -/
theorem run_transactions {bytes : List Byte} (ht : s.peOp = .txp ∨ s.peOp = .txr) (hp : s.pePhase = .t1)
    (hb : txBytes s = bytes) (hm : s.moves = .radio [] :: .radio [] :: ms) :
    run 2 s = .next { s with
      moves := ms, pePhase := .t3
      hist := s.hist ++ [.radioWB s.cfg.aTxFifo bytes, .radioST s.cfg.cmdStx] } := by
  have hrun := run_trans (run_one (step_t1 hm ht hp hb)) (run_one (step_t2 rfl ht rfl))
  rwa [List.append_assoc] at hrun

/-- A rising PKT_SIG passes T3. -/
theorem run_rise (ht : s.peOp = .txp ∨ s.peOp = .txr) (hp : s.pePhase = .t3) (hm : s.moves = .sig true :: .pe :: ms) :
    run 2 s = .next { s with moves := ms, pktSig := true, pePhase := .t4 } :=
  run_trans (run_one (step_sigRise hm)) (run_one (step_t3 rfl ht hp rfl))

/-- A falling PKT_SIG ends the transmit, which absorbs the edge (R142). -/
theorem run_fall (ht : s.peOp = .txp ∨ s.peOp = .txr) (hp : s.pePhase = .t4) (hsig : s.pktSig = true)
    (hm : s.moves = .sig false :: .pe :: ms) :
    run 2 s = .next { s with
      moves := ms, pktSig := false, ifg := false, ie := true, busy := false, peOp := .none } :=
  run_trans (run_one (step_sigFall hm hsig)) (run_one (step_t4 rfl ht hp rfl))

theorem run_transmit {bytes : List Byte} (ht : s.peOp = .txp ∨ s.peOp = .txr) (hp : s.pePhase = .t1)
    (hb : txBytes s = bytes) (hm : s.moves = [.radio [], .radio [], .sig true, .pe, .sig false, .pe] ++ ms) :
    run 6 s = .next { s with
      moves := ms, pePhase := .t4, pktSig := false, ifg := false, ie := true, busy := false, peOp := .none
      hist := s.hist ++ [.radioWB s.cfg.aTxFifo bytes, .radioST s.cfg.cmdStx] } :=
  run_trans (run_trans (run_transactions ht hp hb hm) (run_rise ht rfl rfl)) (run_fall ht rfl rfl rfl)

end

/-- Settles O21: accepted and started, the transmit runs from T1 with the bytes of its kind. -/
theorem transmitSendsItsPacketAndEnablesReception : Obligations.TransmitSendsItsPacketAndEnablesReception := by
  intro s ms hb hop
  refine ⟨fun hlen hm => ?packet, fun hlo hhi hm => ?raw⟩
  case packet =>
    have hstart := run_command_start hb hop rfl (lenOk_txPacket_iff.mpr hlen) hm
    have hrun := run_trans hstart (run_transmit (.inl rfl) rfl (txBytes_of_txp rfl) rfl)
    simpa only [startOperation, hb, hop] using hrun
  case raw =>
    have hstart := run_command_start hb hop rfl (lenOk_txRaw_iff.mpr ⟨hlo, hhi⟩) hm
    have hrun := run_trans hstart (run_transmit (.inr rfl) rfl (txBytes_of_txr rfl) rfl)
    simpa only [startOperation, hb, hop] using hrun

end Sys2Proof.Machine
end

section
/-! Whole receptions (42_packet_rx.md R151, R154 to R164): the return X7, the steps from START_RX to the outcome, and
the good, the bad and the oversized packet assembled from them. -/

namespace Sys2Proof.Machine

section
variable {s : State} {ms : List Move}

/-- X7 zeroes RXBUF, clears IFG and frees PE (R160). -/
theorem step_x7 (hm : s.moves = .pe :: ms) (hop : s.peOp = .rxd) (hp : s.pePhase = .x7) :
    step s = .next { s with
      moves := ms, mem := clearBytes s.mem 0x200 s.cfg.maxPkt, ifg := false, peOp := .none } := by
  have hpe : peStep { s with moves := ms } = State.leaveRx { s with moves := ms } := by
    simp only [peStep, hp, hop, if_true, stepX7]
  exact (step_pe hm).trans (congrArg _ hpe)

theorem step_entersRx (hm : s.moves = .startRx :: ms) (hop : s.peOp = .none) (hifg : s.ifg = true)
    (hie : s.ie = true) : step s = .next { s with moves := ms, peOp := .rxd, pePhase := .x1 } :=
  (step_startRx hm).trans (exec_rxDispatch_of_trigger (s := { s with moves := ms }) hop hifg hie)

theorem step_x1 {v : Byte} (hm : s.moves = .radio [v] :: ms) (hop : s.peOp = .rxd) (hp : s.pePhase = .x1)
    (hocc : occCount s.cfg v ≠ 0) :
    step s = .next { s with moves := ms, hist := s.hist ++ [.radioRS s.cfg.aRxBytes v], pePhase := .x2 } :=
  (occupancyReadDecides s v ms hm hop hp).2 hocc

theorem step_x2_fits {l : Byte} (hm : s.moves = .radio [l] :: ms) (hop : s.peOp = .rxd) (hp : s.pePhase = .x2)
    (hl : l.toNat ≤ s.cfg.maxPkt) :
    step s = .next { s with moves := ms, hist := s.hist ++ [.radioRR s.cfg.aRxFifo l], peL := l, pePhase := .x3 } :=
  (lengthByteDecides s l ms hm hop hp).1 hl

theorem step_x2_oversize {l : Byte} (hm : s.moves = .radio [l] :: ms) (hop : s.peOp = .rxd) (hp : s.pePhase = .x2)
    (hl : s.cfg.maxPkt < l.toNat) :
    step s = .next { s with moves := ms, hist := s.hist ++ [.radioRR s.cfg.aRxFifo l], peL := l, pePhase := .x5 } :=
  (lengthByteDecides s l ms hm hop hp).2 hl

theorem step_x3 {data : List Byte} (hm : s.moves = .radio data :: ms) (hop : s.peOp = .rxd) (hp : s.pePhase = .x3)
    (hl : data.length = s.peL.toNat) :
    step s = .next { s with
      moves := ms, hist := s.hist ++ [.radioRB s.cfg.aRxFifo s.peL.toNat data]
      mem := writeBytes s.mem 0x200 data, pePhase := .x4 } :=
  (step_radio hm).trans (congrArg _ (radioStep_x3 (s := { s with moves := ms }) hop hp hl))

theorem step_x4_crcOk {r q : Byte} (hm : s.moves = .radio [r, q] :: ms) (hop : s.peOp = .rxd) (hp : s.pePhase = .x4)
    (hq : q.getLsbD 7 = true) :
    step s = .next { s with
      moves := ms, hist := s.hist ++ [.radioRB s.cfg.aRxFifo 2 [r, q]], rxRssi := r, rxLqiCrc := q, rxLen := s.peL
      rxResult := ⟨true, true, false⟩, pktValid := true, pePhase := .x6 } :=
  (statusBurstGatesDelivery s r q ms hm hop hp).1 hq

theorem step_x4_crcBad {r q : Byte} (hm : s.moves = .radio [r, q] :: ms) (hop : s.peOp = .rxd) (hp : s.pePhase = .x4)
    (hq : q.getLsbD 7 = false) :
    step s = .next { s with
      moves := ms, hist := s.hist ++ [.radioRB s.cfg.aRxFifo 2 [r, q]], rxRssi := r, rxLqiCrc := q, rxLen := s.peL
      rxResult := ⟨true, false, false⟩, pePhase := .x7 } :=
  (statusBurstGatesDelivery s r q ms hm hop hp).2 hq

/-- A write of PKT_ACK, with WAKE in bit 2, delivers the packet on offer (R84, R216). -/
theorem step_packetAck {w : Bool} (hm : s.moves = .hostWrite 0x004#10 (if w then 0x06#8 else 0x02#8) :: ms)
    (hv : s.pktValid = true) :
    step s = .next { s with
      moves := ms, pktValid := false, pePhase := .x7
      hist := s.hist ++
        (.packet (readBytes s.mem 0x200 s.rxLen.toNat) w :: if w then [Event.wake] else []) } := by
  have hrun : ∀ u : State,
      runMove (.hostWrite 0x004#10 (if w then 0x06#8 else 0x02#8)) u = .next (ackPacketPart w u) := fun u => by
    rw [runMove_ack]
    cases w <;> rfl
  exact ((step_queued hm).trans (hrun _)).trans
    (congrArg _ (ackPacketPart_of_offer (s := { s with moves := ms }) w hv))

/-! ### From START_RX to the length byte and the payload -/

/-- START_RX and the occupancy read. -/
theorem run_enter {v : Byte} (hm : s.moves = .startRx :: .radio [v] :: ms) (hop : s.peOp = .none)
    (hifg : s.ifg = true) (hie : s.ie = true) (hocc : occCount s.cfg v ≠ 0) :
    run 2 s = .next { s with
      moves := ms, peOp := .rxd, pePhase := .x2, hist := s.hist ++ [.radioRS s.cfg.aRxBytes v] } :=
  run_trans (run_one (step_entersRx hm hop hifg hie)) (run_one (step_x1 rfl rfl rfl hocc))

/-- The length byte of a packet that fits, and its payload. -/
theorem run_payload {l : Byte} {data : List Byte} (hm : s.moves = .radio [l] :: .radio data :: ms) (hop : s.peOp = .rxd)
    (hp : s.pePhase = .x2) (hl : l.toNat ≤ s.cfg.maxPkt) (hdata : data.length = l.toNat) :
    run 2 s = .next { s with
      moves := ms, peL := l, pePhase := .x4, mem := writeBytes s.mem 0x200 data
      hist := s.hist ++ [.radioRR s.cfg.aRxFifo l, .radioRB s.cfg.aRxFifo l.toNat data] } := by
  have hrun := run_trans (run_one (step_x2_fits hm hop hp hl)) (run_one (step_x3 rfl hop rfl hdata))
  rwa [List.append_assoc] at hrun

/-- A packet that fits, up to the status burst. -/
theorem run_to_x4 {v l : Byte} {data : List Byte}
    (hm : s.moves = .startRx :: .radio [v] :: .radio [l] :: .radio data :: ms) (hop : s.peOp = .none)
    (hifg : s.ifg = true) (hie : s.ie = true) (hocc : occCount s.cfg v ≠ 0) (hl : l.toNat ≤ s.cfg.maxPkt)
    (hdata : data.length = l.toNat) :
    run 4 s = .next { s with
      moves := ms, peOp := .rxd, pePhase := .x4, peL := l, mem := writeBytes s.mem 0x200 data
      hist := s.hist ++
        [.radioRS s.cfg.aRxBytes v, .radioRR s.cfg.aRxFifo l, .radioRB s.cfg.aRxFifo l.toNat data] } := by
  have hrun := run_trans (run_enter hm hop hifg hie hocc) (run_payload rfl rfl rfl hl hdata)
  rwa [List.append_assoc] at hrun

end

/-- After the return RXBUF is zero and every byte outside it is as before the payload. -/
theorem readByte_clear_payload {data : List Byte} {n : Nat} (m : List Host.Cell) (hlen : data.length ≤ n) (a : Nat) :
    readByte (clearBytes (writeBytes m 0x200 data) 0x200 n) a =
      if 0x200 ≤ a ∧ a < 0x200 + n then 0x00#8 else readByte m a := by
  rw [readByte_clearBytes]
  split_ifs with h
  · rfl
  · exact readByte_writeBytes_outside m 0x200 data (by omega)

/-- Settles O28: the memory after X7 is `clearBytes` at RXBUF, whose reads are known. -/
theorem returnZeroesRxbuf : Obligations.ReturnZeroesRxbuf := fun s _ hm hop hp =>
  ⟨clearBytes s.mem 0x200 s.cfg.maxPkt, step_x7 hm hop hp, readByte_clearBytes s.mem 0x200 s.cfg.maxPkt⟩

/-- The RXBUF window shows RXBUF, and 0x00 beyond it (20_memory.md R63). -/
theorem hostRead_rxbuf {s : State} {a : HostAddr} {i : Nat} (ha : a.toNat = 0x200 + i) (hi : i ≤ 0xFF) :
    hostRead s a = if i < s.cfg.maxPkt then readByte s.mem (0x200 + i) else 0x00#8 := by
  have hpage : a.toNat / 0x100 = 2 := by omega
  have hoff : a.toNat % 0x100 = i := by omega
  simp only [hostRead, hpage, readWindow, hoff]
  rw [ha]

/-- A good packet is on offer after five steps. -/
theorem run_to_offer {s : State} {v l r q : Byte} {data : List Byte} {ms : List Move}
    (hm : s.moves = .startRx :: .radio [v] :: .radio [l] :: .radio data :: .radio [r, q] :: ms) (hop : s.peOp = .none)
    (hifg : s.ifg = true) (hie : s.ie = true) (hocc : occCount s.cfg v ≠ 0) (hl : l.toNat ≤ s.cfg.maxPkt)
    (hdata : data.length = l.toNat) (hq : q.getLsbD 7 = true) :
    run 5 s = .next { s with
      moves := ms, peOp := .rxd, pePhase := .x6, peL := l, rxLen := l, rxRssi := r, rxLqiCrc := q
      rxResult := ⟨true, true, false⟩, pktValid := true, mem := writeBytes s.mem 0x200 data
      hist := s.hist ++ [.radioRS s.cfg.aRxBytes v, .radioRR s.cfg.aRxFifo l, .radioRB s.cfg.aRxFifo l.toNat data,
        .radioRB s.cfg.aRxFifo 2 [r, q]] } := by
  have hrun := run_trans (run_to_x4 hm hop hifg hie hocc hl hdata) (run_one (step_x4_crcOk rfl rfl rfl hq))
  rwa [List.append_assoc] at hrun

/-- Settles O29: the packet on offer is the payload written to RXBUF, and PKT_ACK and X7 follow. -/
theorem goodPacketIsDelivered : Obligations.GoodPacketIsDelivered := by
  intro s v l r q data w ms hwf hop hifg hie hocc hl hdata hq hm
  have hoffer := run_to_offer hm hop hifg hie hocc hl hdata hq
  refine ⟨⟨_, hoffer, rfl, rfl, fun a i hi ha => ?shown⟩, ?delivered⟩
  case shown =>
    have hlt := l.isLt
    rw [hostRead_rxbuf ha (by omega), if_pos (show i < s.cfg.maxPkt by omega)]
    exact readByte_writeBytes_inside 0x200 data hwf hi
  case delivered =>
    have hread : readBytes (writeBytes s.mem 0x200 data) 0x200 l.toNat = data :=
      hdata ▸ readBytes_writeBytes hwf 0x200 data
    have hack := run_trans hoffer (run_one (step_packetAck rfl rfl))
    rw [hread, List.append_assoc] at hack
    have hback := run_trans hack (run_one (step_x7 (ms := ms) rfl rfl rfl))
    refine ⟨_, ?_, readByte_clear_payload s.mem (hdata.trans_le hl)⟩
    simpa only [hop, List.cons_append, List.nil_append] using hback

/-- Settles O30: a bad CRC goes from X4 to the return, an oversized length byte through the flush to it. -/
theorem failedReceptionsDeliverNothing : Obligations.FailedReceptionsDeliverNothing := by
  intro s v l r q data ms hwf hop hifg hie hocc
  refine ⟨fun hl hdata hq hm => ?badCrc, fun hl hm => ?oversize⟩
  case badCrc =>
    have hpayload := run_to_x4 hm hop hifg hie hocc hl hdata
    have hstatus := run_trans hpayload (run_one (step_x4_crcBad rfl rfl rfl hq))
    have hback := run_trans hstatus (run_one (step_x7 (ms := ms) rfl rfl rfl))
    refine ⟨_, ?_, readByte_clear_payload s.mem (hdata.trans_le hl)⟩
    simpa only [hop, List.append_assoc, List.cons_append, List.nil_append] using hback
  case oversize =>
    have hlength := run_trans (run_enter hm hop hifg hie hocc) (run_one (step_x2_oversize rfl rfl rfl hl))
    have hflush := run_trans hlength (run_one (oversizeFlushes _ _ rfl rfl rfl))
    have hback := run_trans hflush (run_one (step_x7 (ms := ms) rfl rfl rfl))
    refine ⟨_, ?_, readByte_clearBytes s.mem 0x200 s.cfg.maxPkt⟩
    simpa only [hop, List.append_assoc, List.cons_append, List.nil_append] using hback

end Sys2Proof.Machine
end

section
/-! Host reads (20_memory.md R60 to R65; 44_control.md R210): the bits of the flag registers, the registers and windows
by address, and the statements about STATUS and the whole map. -/

namespace Sys2Proof.Machine

/-! ### Flags as bits -/

/-- A flag shifted to bit `k` of a byte is that bit and no other. -/
theorem getLsbD_flagByte_shift (b : Bool) {k : Nat} (hk : k < 8) (i : Nat) :
    (flagByte b <<< k).getLsbD i = (decide (i = k) && b) := by
  cases b with
  | false => simp [flagByte]
  | true =>
    simp only [flagByte, if_true, BitVec.getLsbD_shiftLeft, BitVec.getLsbD_one, Bool.and_true]
    rw [Bool.eq_iff_iff]
    simp
    omega

theorem getLsbD_flagByte (b : Bool) (i : Nat) : (flagByte b).getLsbD i = (decide (i = 0) && b) := by
  simpa using getLsbD_flagByte_shift b (k := 0) (by omega) i

/-- Each flag of STATUS at its bit, beside ERR's code (R26). -/
theorem getLsbD_statusByte (s : State) (i : Nat) :
    (statusByte s).getLsbD i =
      (decide (i = 0) && s.busy || (s.err.code <<< 1).getLsbD i || decide (i = 4) && s.ie || decide (i = 5) && s.ifg ||
        decide (i = 6) && s.frmValid || decide (i = 7) && s.pktValid) := by
  simp only [statusByte, BitVec.getLsbD_or, getLsbD_flagByte, getLsbD_flagByte_shift _ (show 4 < 8 by decide),
    getLsbD_flagByte_shift _ (show 5 < 8 by decide), getLsbD_flagByte_shift _ (show 6 < 8 by decide),
    getLsbD_flagByte_shift _ (show 7 < 8 by decide)]

/-- ERR's code has two bits, so shifted by one it leaves every flag's bit clear (R231). -/
theorem getLsbD_errCode_shift (e : ErrCode) : ∀ i ∈ [0, 4, 5, 6, 7], (e.code <<< 1).getLsbD i = false := by
  cases e <;> decide

theorem getLsbD_statusByte_flag (s : State) {i : Nat} (hi : i ∈ [0, 4, 5, 6, 7]) :
    (statusByte s).getLsbD i =
      (decide (i = 0) && s.busy || decide (i = 4) && s.ie || decide (i = 5) && s.ifg || decide (i = 6) && s.frmValid ||
        decide (i = 7) && s.pktValid) := by
  rw [getLsbD_statusByte, getLsbD_errCode_shift s.err i hi, Bool.or_false]

/-- ERR alone is in bits [3:1] (R26). -/
theorem extractLsb'_statusByte (s : State) : (statusByte s).extractLsb' 1 3 = (s.err.code <<< 1).extractLsb' 1 3 := by
  refine BitVec.eq_of_getLsbD_eq fun i hi => ?_
  have h : ∀ k, k = 0 ∨ 4 ≤ k → decide (1 + i = k) = false := fun k hk => decide_eq_false (by omega)
  simp only [BitVec.getLsbD_extractLsb', getLsbD_statusByte, h 0 (by omega), h 4 (by omega), h 5 (by omega),
    h 6 (by omega), h 7 (by omega), Bool.false_and, Bool.false_or, Bool.or_false]

/-- Settles O47: a read of STATUS is `statusByte`, whose bits are known. -/
theorem statusReadsItsFlags : Obligations.StatusReadsItsFlags := by
  intro s
  have hread : hostRead s 0x003#10 = statusByte s := rfl
  rw [hread, extractLsb'_statusByte]
  refine ⟨?busy, ?err, ?ie, ?ifg, ?frmValid, ?pktValid⟩
  case err => cases s.err <;> rfl
  all_goals
    rw [getLsbD_statusByte_flag s (by decide)]
    simp

/-- The bits of RX_RESULT (R37). -/
theorem getLsbD_rxResult_byte (r : RxResult) (i : Nat) :
    r.byte.getLsbD i =
      (decide (i = 0) && r.present || decide (i = 1) && r.crcOk || decide (i = 2) && r.oversize) := by
  simp only [RxResult.byte, BitVec.getLsbD_or, getLsbD_flagByte, getLsbD_flagByte_shift _ (show 1 < 8 by decide),
    getLsbD_flagByte_shift _ (show 2 < 8 by decide)]

/-! ### The map -/

section
variable {s : State} {a : HostAddr}

/-- The offsets above RX_LQI_CRC are reserved (R61, R65). -/
theorem readRegister_reserved {off : Nat} (h : 0x00C ≤ off) : readRegister s off = 0x00#8 := by
  obtain ⟨n, rfl⟩ := Nat.exists_eq_add_of_le' h
  rfl

theorem hostRead_reserved (hlo : 0x00C ≤ a.toNat) (hhi : a.toNat ≤ 0x0FF) : hostRead s a = 0x00#8 := by
  have hpage : a.toNat / 0x100 = 0 := by omega
  have hoff : 0x00C ≤ a.toNat % 0x100 := by omega
  simp only [hostRead, hpage]
  exact readRegister_reserved hoff

/-- The SRC window shows SRC, and 0x00 beyond it (R62). -/
theorem hostRead_src {i : Nat} (ha : a.toNat = 0x100 + i) (hi : i ≤ 0xFF) :
    hostRead s a = if i < s.cfg.maxPkt + 1 then readByte s.mem (0x100 + i) else 0x00#8 := by
  have hpage : a.toNat / 0x100 = 1 := by omega
  have hoff : a.toNat % 0x100 = i := by omega
  simp only [hostRead, hpage, readWindow, hoff]
  rw [ha]

/-- The ACC window shows ACC, and 0x00 beyond it (R64). -/
theorem hostRead_acc {i : Nat} (ha : a.toNat = 0x300 + i) :
    hostRead s a = if i < s.cfg.maxPkt then readByte s.mem (0x300 + i) else 0x00#8 := by
  have hpage : a.toNat / 0x100 = 3 := by omega
  have hoff : a.toNat % 0x100 = i := by omega
  simp only [hostRead, hpage, readWindow, hoff]
  rw [ha]

end

/-- Settles O48: each register by its address, the reserved offsets, and the three windows. -/
theorem hostReadsFollowTheAddressMap : Obligations.HostReadsFollowTheAddressMap := by
  intro s a _
  refine ⟨fun ms hm => ?step, ?noReadBack, ?argLen, ?argDest, ?dec, ?decIdx, ?frmLen, ?result, ?rxLen, ?rssi, ?lqi,
    hostRead_reserved, fun i => hostRead_src, fun i => hostRead_rxbuf, fun i ha _ => hostRead_acc ha⟩
  case step => exact (step_queued hm).trans (runMove_hostRead a _)
  case noReadBack => rintro (rfl | rfl) <;> rfl
  case dec =>
    rintro rfl
    change s.decState.code = _
    cases s.decState <;> rfl
  case result =>
    rintro rfl i
    exact getLsbD_rxResult_byte s.rxResult i
  all_goals rintro rfl; rfl

end Sys2Proof.Machine
end

section
/-! The environment's inputs, RESET, and the quiescent state (20_memory.md R68, R69; 70_reset_and_hazards.md R260;
40_sequencer.md R114). -/

namespace Sys2Proof.Machine

/-! ### Inputs -/

theorem srxStep_of_taken {s : State} (b : Byte) (hx : s.srx ≠ none) : srxStep b s = s :=
  if_neg (by simpa using hx)

/-- A byte waits while a frame is on offer (R68, R186). -/
theorem runMove_feed_of_frame {s : State} (hf : s.frmValid = true) : runMove .feed s = .next s := by
  cases hx : s.srx with
  | none => exact runMove_feed_empty hx
  | some b =>
    rw [runMove_feed hx, execFeed, canFeed, hf, Bool.not_true, Bool.and_false]
    rfl

/-- Settles O44: each input by its step. -/
theorem inputsOfTheEnvironment : Obligations.InputsOfTheEnvironment := by
  intro s ms
  refine ⟨fun b hm hx => step_srx hm hx, fun b hm hx => ?taken, fun hm hf => ?waits, step_sigFall,
    fun level hm hno => ?level⟩
  case taken =>
    rw [step_queued hm, runMove_srx]
    exact congrArg _ (srxStep_of_taken (s := { s with moves := ms }) b hx)
  case waits =>
    rw [step_queued hm]
    exact runMove_feed_of_frame (s := { s with moves := ms }) hf
  case level => exact (step_sig hm).trans (congrArg _ (sigStep_of_no_fall hno))

/-- Settles O45: RESET answers the reset block, whose fields are the reset values. -/
theorem resetSetsEveryPieceOfBlockState : Obligations.ResetSetsEveryPieceOfBlockState := fun s => exec_reset s

/-! ### Quiescence -/

/-- With PE free and nothing pending, latched or offered, no step of PE or DE is enabled. -/
theorem enabled_of_quiescent {s : State} (h : Quiescent s) {m : Move} (hm : isEngineMove m = true) :
    enabled s m = false := by
  obtain ⟨hop, hpend, -, -, htrig, hx⟩ := h
  cases m with
  | startCmd => simp [enabled, canStartCmd, hpend]
  | startRx => exact Bool.eq_false_iff.mpr fun hrx => htrig (canStartRx_iff.mp hrx).2
  | stx => simp [enabled, serialOffer, hop]
  | radio => simp [enabled, radioOffer, hop]
  | pe => cases hp : s.pePhase <;> simp [enabled, canPe, transmitting, hp, hop]
  | feed => simp [enabled, hx]
  | hostRead | hostWrite | srx | sig | tick | reset => simp [isEngineMove] at hm

/-- Every effect of a move of PE or DE has a guard that quiescence excludes. -/
theorem MoveEffect.eq_of_quiescent {s t : State} {m : Move} (heffect : MoveEffect s m t) (h : Quiescent s)
    (hm : isEngineMove m = true) : t = s := by
  obtain ⟨hop, hpend, -, -, htrig, hx⟩ := h
  have htx : ¬transmitting s = true := by simp [transmitting, hop]
  cases heffect with
  | waits => rfl
  | startsEnc _ _ hc | startsTxp _ _ hc | startsTxr _ _ hc | setsUp _ _ hc => exact nomatch hpend.symm.trans hc
  | entersRx _ hifg hie => exact absurd ⟨hifg, hie⟩ htrig
  | putsByte _ hop' | putsLastByte _ hop' | findsNothing _ hop' | findsBytes _ hop' | readsFitting _ hop'
  | readsOversize _ hop' | readsPayload _ hop' | passesCrc _ _ hop' | failsCrc _ _ hop' | flushes hop'
  | leavesRx hop' => exact nomatch hop.symm.trans hop'
  | writesBurst ht | strobesTx ht | passesT3 ht | endsTransmit ht => exact absurd ht htx
  | startsFrame _ hx' | discardsByte _ hx' | holdsEscape _ hx' | endsFrame _ hx' | appends _ _ hx'
  | overflows _ hx' => exact nomatch hx.symm.trans hx'
  | hostReads | badOpcode | badLen | accepts | acksFrame | acksPacket | acksBoth | storesLen | storesDest | storesSrc
  | countsTick | timesOut | offersByte | signalFalls | signalSets | resets => simp [isEngineMove] at hm

theorem runMove_of_quiescent {s : State} (h : Quiescent s) {m : Move} (hm : isEngineMove m = true) :
    runMove m s = .next s := by
  obtain ⟨t, ht⟩ := runMove_answers_next m s
  rw [ht, (effect_of_runMove ht).eq_of_quiescent h hm]

theorem ownMoves_of_quiescent {s : State} (h : Quiescent s) : ownMoves s = [] := by
  refine List.eq_nil_iff_forall_not_mem.mpr fun m hmem => ?_
  obtain ⟨hown, hen⟩ := mem_ownMoves.mp hmem
  have hm : isEngineMove m = true := by rcases hown with rfl | rfl | rfl | rfl <;> rfl
  simp [enabled_of_quiescent h hm] at hen

/-- Settles O60: no step of PE or DE is enabled, queued or of the block's own. -/
theorem quiescentStateHasNoEngineStep : Obligations.QuiescentStateHasNoEngineStep := by
  intro s h
  refine ⟨fun m => enabled_of_quiescent h, fun m ms hm hq => ?queued, fun hnil => ?alone⟩
  case queued => exact (step_queued hq).trans (runMove_of_quiescent (s := { s with moves := ms }) h hm)
  case alone => exact (step_nil hnil).trans (ownStep_of_nil (ownMoves_of_quiescent h))

end Sys2Proof.Machine
end

section
/-! FEED beside the packet engine (40_sequencer.md R110; 60_exceptions.md R241): the state with another queue and
decoder, the moves of PE and FEED on it, and their two orders. -/

namespace Sys2Proof.Machine

/-- The memory after the decoder stored nothing, or one byte at an index of ACC. -/
def storeAcc (w : Option (Nat × Byte)) (m : List Host.Cell) : List Host.Cell :=
  match w with
  | none => m
  | some (i, x) => writeByte m (0x300 + i) x

/-- The state with the queue `ms`, the decoder of `d`, and the store `w` in ACC. -/
def State.withDecoder (s : State) (ms : List Move) (d : State) (w : Option (Nat × Byte)) : State :=
  { s with
    moves := ms, srx := d.srx, frmValid := d.frmValid, decState := d.decState, decIdx := d.decIdx, frmLen := d.frmLen
    mem := storeAcc w s.mem }

/-! ### Stores in ACC and the other buffers -/

theorem readByte_storeAcc_below (w : Option (Nat × Byte)) (m : List Host.Cell) {a : Nat} (ha : a < 0x300) :
    readByte (storeAcc w m) a = readByte m a := by
  cases w with
  | none => rfl
  | some p => exact readByte_writeByte_ne m p.2 (by omega)

theorem writeByte_writeBytes_comm {m : List Host.Cell} (hwf : Memory.wf m = true) {a b : Nat} (bs : List Byte)
    (h : a + bs.length ≤ b) (v : Byte) :
    writeByte (writeBytes m a bs) b v = writeBytes (writeByte m b v) a bs := by
  induction bs generalizing m a with
  | nil => rfl
  | cons x bs ih =>
    rw [List.length_cons] at h
    rw [writeBytes, writeBytes, ih (wf_writeByte hwf a x) (by omega), writeByte_comm hwf (by omega)]

theorem writeByte_clearBytes_comm {m : List Host.Cell} (hwf : Memory.wf m = true) {a n b : Nat} (h : a + n ≤ b)
    (v : Byte) : writeByte (clearBytes m a n) b v = clearBytes (writeByte m b v) a n := by
  refine memory_ext (wf_writeByte (wf_clearBytes hwf a n) b v) (wf_clearBytes (wf_writeByte hwf b v) a n) fun c => ?_
  rw [readByte_writeByte (wf_clearBytes hwf a n), readByte_clearBytes, readByte_clearBytes, readByte_writeByte hwf]
  by_cases hcb : c = b
  · rw [if_pos hcb, if_pos hcb, if_neg (by omega)]
  · rw [if_neg hcb, if_neg hcb]

theorem storeAcc_writeBytes {m : List Host.Cell} (hwf : Memory.wf m = true) (w : Option (Nat × Byte))
    {bs : List Byte} (h : bs.length ≤ 0x100) :
    storeAcc w (writeBytes m 0x200 bs) = writeBytes (storeAcc w m) 0x200 bs := by
  cases w with
  | none => rfl
  | some p => exact writeByte_writeBytes_comm hwf bs (by omega) p.2

theorem storeAcc_clearBytes {m : List Host.Cell} (hwf : Memory.wf m = true) (w : Option (Nat × Byte)) {n : Nat}
    (h : n ≤ 0x100) : storeAcc w (clearBytes m 0x200 n) = clearBytes (storeAcc w m) 0x200 n := by
  cases w with
  | none => rfl
  | some p => exact writeByte_clearBytes_comm hwf (by omega) p.2

/-! ### The moves of PE -/

section
variable (s : State) (ms : List Move) (d : State) (w : Option (Nat × Byte))

theorem withDecoder_ite (c : Prop) [Decidable c] (t u : State) :
    (if c then t else u).withDecoder ms d w = if c then t.withDecoder ms d w else u.withDecoder ms d w :=
  apply_ite (State.withDecoder · ms d w) c t u

/-- A command's data is in SRC, which the decoder does not write. -/
theorem srcData_withDecoder : srcData (s.withDecoder ms d w) = srcData s := by
  have hbelow : ∀ i, i < s.peLen.toNat → 0x100 + i < 0x300 := fun i hi => by omega
  exact readBytes_congr fun i hi => readByte_storeAcc_below w s.mem (hbelow i hi)

theorem startCommand_withDecoder :
    startCommand (s.withDecoder ms d w) = (startCommand s).withDecoder ms d w := by
  have hpend : (s.withDecoder ms d w).cmdPend = s.cmdPend := rfl
  have hstart : ∀ op (u : State),
      (startOperation op u).withDecoder ms d w = startOperation op (u.withDecoder ms d w) := fun op u => by
    cases op <;> rfl
  simp only [startCommand, withDecoder_ite, hpend]
  cases s.cmdPend with
  | none => rfl
  | some c => simp only [hstart]; rfl

theorem encStep_withDecoder : encStep (s.withDecoder ms d w) = (encStep s).withDecoder ms d w := by
  have hsrc : encodedSrc (s.withDecoder ms d w) = encodedSrc s := congrArg encodeFrame (srcData_withDecoder s ms d w)
  have hoff : serialOffer (s.withDecoder ms d w) = serialOffer s := by
    simp only [serialOffer, hsrc]
    rfl
  simp only [encStep, hoff, hsrc]
  cases serialOffer s with
  | none => rfl
  | some b => simp only [withDecoder_ite]; rfl

theorem radioOffer_withDecoder : radioOffer (s.withDecoder ms d w) = radioOffer s := by
  have htx : txBytes (s.withDecoder ms d w) = txBytes s := by
    simp only [txBytes, srcData_withDecoder]
    rfl
  have hoff : txOffer (s.withDecoder ms d w) = txOffer s := by
    simp only [txOffer, htx]
    rfl
  simp only [radioOffer, hoff]
  rfl

theorem txAdvance_withDecoder : txAdvance (s.withDecoder ms d w) = (txAdvance s).withDecoder ms d w := by
  have hphase : (s.withDecoder ms d w).pePhase = s.pePhase := rfl
  unfold txAdvance
  rw [hphase]
  cases s.pePhase <;> rfl

/-- Of the receive steps only X3 writes memory, in RXBUF. -/
theorem rxAdvance_withDecoder {data : List Byte} (hwf : Memory.wf s.mem = true) (hlen : data.length ≤ 0x100) :
    rxAdvance data (s.withDecoder ms d w) = (rxAdvance data s).withDecoder ms d w := by
  have hphase : (s.withDecoder ms d w).pePhase = s.pePhase := rfl
  have hx1 : ∀ v, stepX1 v (s.withDecoder ms d w) = (stepX1 v s).withDecoder ms d w := fun v => by
    simp only [stepX1, withDecoder_ite]
    rfl
  have hx3 : stepX3 data (s.withDecoder ms d w) = (stepX3 data s).withDecoder ms d w := by
    simp only [State.withDecoder, stepX3, storeAcc_writeBytes hwf w hlen]
  unfold rxAdvance
  rw [hphase]
  cases s.pePhase with
  | x1 => exact hx1 _
  | x3 => exact hx3
  | _ => rfl

end

section
variable {s : State} (ms : List Move) (d : State) (w : Option (Nat × Byte))

theorem txOffer_count {r : RadioReq} (h : txOffer s = some r) : r.count = 0 := by
  unfold txOffer at h
  split at h <;> cases h <;> rfl

/-- A transaction asks for one buffer's bytes at most. -/
theorem rxOffer_count_le {r : RadioReq} (h : rxOffer s = some r) : r.count ≤ 0x100 := by
  have hlt := s.peL.isLt
  unfold rxOffer at h
  split at h <;> cases h <;> simp only [RadioReq.count] <;> omega

theorem radioOffer_count_le {r : RadioReq} (h : radioOffer s = some r) : r.count ≤ 0x100 := by
  unfold radioOffer at h
  split at h
  · exact (txOffer_count h).trans_le (Nat.zero_le _)
  · exact (txOffer_count h).trans_le (Nat.zero_le _)
  · exact rxOffer_count_le h
  · cases h
  · cases h

theorem radioStep_withDecoder (data : List Byte) (hwf : Memory.wf s.mem = true) :
    radioStep data (s.withDecoder ms d w) = (radioStep data s).withDecoder ms d w := by
  cases ho : radioOffer s with
  | none => simp only [radioStep, radioOffer_withDecoder, ho]
  | some r =>
    by_cases hl : data.length = r.count
    · have hrx := rxAdvance_withDecoder (s.emit (r.event data)) ms d w hwf (hl.trans_le (radioOffer_count_le ho))
      have htx := txAdvance_withDecoder (s.emit (r.event data)) ms d w
      simp only [radioStep, radioOffer_withDecoder, ho, if_pos hl, radioAdvance, withDecoder_ite, ← hrx, ← htx]
      rfl
    · simp only [radioStep, radioOffer_withDecoder, ho, if_neg hl]

/-- Of PE's internal steps only X7 writes memory, in RXBUF. -/
theorem peStep_withDecoder (hwf : Memory.wf s.mem = true) (hcap : s.cfg.maxPkt ≤ 254) :
    peStep (s.withDecoder ms d w) = (peStep s).withDecoder ms d w := by
  have hphase : (s.withDecoder ms d w).pePhase = s.pePhase := rfl
  have hleave : (s.withDecoder ms d w).leaveRx = s.leaveRx.withDecoder ms d w := by
    simp only [State.withDecoder, State.leaveRx, storeAcc_clearBytes hwf w (show s.cfg.maxPkt ≤ 0x100 by omega)]
  unfold peStep
  rw [hphase]
  cases s.pePhase <;> simp only [withDecoder_ite, stepT3, stepT4, stepX7, ← hleave] <;> rfl

/-- A move of PE does the same whatever the queue and the decoder are. -/
theorem runMove_withDecoder {t : State} {m : Move} (hwf : Memory.wf s.mem = true) (hcap : s.cfg.maxPkt ≤ 254)
    (hm : isPacketEngineMove m = true) (h : runMove m s = .next t) :
    runMove m (s.withDecoder ms d w) = .next (t.withDecoder ms d w) := by
  cases m with
  | startCmd => cases h; exact congrArg _ (startCommand_withDecoder s ms d w)
  | startRx =>
    rw [runMove_startRx] at h ⊢
    obtain rfl := Host.Outcome.next.inj h
    rw [withDecoder_ite]
    rfl
  | stx => cases h; exact congrArg _ (encStep_withDecoder s ms d w)
  | radio data => cases h; exact congrArg _ (radioStep_withDecoder ms d w data hwf)
  | pe => cases h; exact congrArg _ (peStep_withDecoder ms d w hwf hcap)
  | feed | hostRead | hostWrite | srx | sig | tick | reset => simp [isPacketEngineMove, isEngineMove] at hm

end

/-! ### FEED -/

/-- Append looks at DEC_IDX and the capacity, and stores in ACC where there is room. -/
theorem appendByte_withDecoder (s : State) (x : Byte) :
    ∃ w, ∀ (u : State) (ms : List Move), u.cfg = s.cfg →
      (u.withDecoder ms s none).appendByte x = u.withDecoder ms (s.appendByte x) w := by
  by_cases hroom : s.decIdx.toNat < s.cfg.maxPkt
  · refine ⟨some (s.decIdx.toNat, x), fun u ms hcfg => ?_⟩
    have hroom' : s.decIdx.toNat < u.cfg.maxPkt := hcfg ▸ hroom
    rw [appendByte_of_room x hroom]
    exact appendByte_of_room (s := u.withDecoder ms s none) x hroom'
  · refine ⟨none, fun u ms hcfg => ?_⟩
    have hfull' : ¬s.decIdx.toNat < u.cfg.maxPkt := hcfg ▸ hroom
    have hdrop : s.appendByte x = { s with decState := .idle, decIdx := 0x00#8 } := if_neg hroom
    rw [hdrop]
    exact if_neg hfull'

/-- A transition looks at the decoder and the parameters alone, and writes the decoder and ACC alone. -/
theorem feedAct_withDecoder (st : DecState) (b : Byte) (s : State) :
    ∃ w, ∀ (u : State) (ms : List Move), u.cfg = s.cfg →
      feedAct st b (u.withDecoder ms s none) = u.withDecoder ms (feedAct st b s) w := by
  cases st with
  | idle =>
    refine ⟨none, fun u ms _ => ?_⟩
    simp only [feedAct]
    split_ifs <;> rfl
  | receiving =>
    cases hb : reserved b with
    | false =>
      rw [feedAct_receiving_plain hb]
      exact appendByte_withDecoder s b
    | true => rcases reserved_iff.mp hb with rfl | rfl | rfl <;> exact ⟨none, fun _ _ _ => rfl⟩
  | escapePending => exact appendByte_withDecoder s (b ^^^ escMask)

/-- What FEED makes of a decoder, beside any packet engine. -/
theorem runMove_feed_withDecoder (s : State) :
    ∃ d w, ∀ (u : State) (ms : List Move), u.cfg = s.cfg →
      runMove .feed (u.withDecoder ms s none) = .next (u.withDecoder ms d w) := by
  cases hx : s.srx with
  | none => exact ⟨s, none, fun u ms _ => runMove_feed_empty hx⟩
  | some b =>
    cases hf : s.frmValid with
    | true => exact ⟨s, none, fun u ms _ => runMove_feed_of_frame hf⟩
    | false =>
      obtain ⟨w, hw⟩ := feedAct_withDecoder s.decState b { s with srx := none }
      refine ⟨feedAct s.decState b { s with srx := none }, w, fun u ms hcfg => ?_⟩
      rw [← hw u ms hcfg, runMove_feed (s := u.withDecoder ms s none) hx]
      exact exec_feed_of_enabled (s := u.withDecoder ms s none) hx hf

/-- Settles O52: in both orders PE's state is `t`'s, and the decoder and the store in ACC are FEED's. -/
theorem feedCommutesWithThePacketEngine : Obligations.FeedCommutesWithThePacketEngine := by
  intro s m ms hok hwf hm hq
  obtain ⟨-, hcap, -⟩ := hok
  obtain ⟨t, ht⟩ := runMove_answers_next m { s with moves := ms }
  have hcfg : t.cfg = s.cfg := (effect_of_runMove ht).cfg_eq
  obtain ⟨d, w, hfeed⟩ := runMove_feed_withDecoder s
  have hengine := fun ms' d' w' => runMove_withDecoder (s := { s with moves := ms }) ms' d' w' hwf hcap hm ht
  refine ⟨t.withDecoder ms d w, ?engineFirst, ?feedFirst⟩
  case engineFirst =>
    have hfirst := (step_queued hq).trans (hengine (.feed :: ms) s none)
    exact run_trans (run_one hfirst) (run_one ((step_queued rfl).trans (hfeed t ms hcfg)))
  case feedFirst =>
    have hfirst : step { s with moves := .feed :: m :: ms } = .next (s.withDecoder (m :: ms) d w) :=
      (step_queued rfl).trans (hfeed s (m :: ms) rfl)
    exact run_trans (run_one hfirst) (run_one ((step_queued rfl).trans (hengine ms d w)))

end Sys2Proof.Machine
end
